-- ==== Sys2Proof/Word.lean ====
section
/-! DEFINITION. The two bit-vector types of the engine: the 32-bit word of R7 and R10 (unsigned,
arithmetic modulo 2^32) and the 8-bit byte of R9. -/

namespace Sys2Proof

/-- R7, R10: a word is an unsigned integer in `[0, 2^32)`; `+` on words wraps modulo 2^32. -/
abbrev Word := BitVec 32

/-- R9: a byte is 8 bits. -/
abbrev Byte := BitVec 8

end Sys2Proof
end

