-- ==== Sys2Proof/Syntax.lean ====
section
/-! DEFINITION. What the outside world can say to the engine: the 22 commands of the opcode map
(R76), and the inputs of R5, R12 and R230 (host accesses, sequencer turns, reset). -/

namespace Sys2Proof

/-- R72: the six command formats. -/
inductive Format where
  /-- no operand -/
  | N
  /-- `IDX[2:0]`, 0..7 -/
  | I3
  /-- `IDX[3:0]`, 0..15 -/
  | I4
  /-- `IDX[5:0]`, 0..63 -/
  | I6
  /-- ALU function without an operand field -/
  | A
  /-- ALU function with `SH[4:0]`, 0..31 -/
  | AS
  deriving DecidableEq, Repr

/-- R76: one constructor per row of the opcode map, in the map's order. An index or amount has
exactly the range its format can encode (R73, R74), so no command with an operand out of range
can be written down (log entry 3). -/
inductive Instr where
  /-- `NOP` (R141) -/
  | nop
  /-- `INIT` (R142) -/
  | init
  /-- `WRH i` (R143) -/
  | wrh (i : Fin 8)
  /-- `RDH i` (R144) -/
  | rdh (i : Fin 8)
  /-- `WRW i` (R145) -/
  | wrw (i : Fin 16)
  /-- `RDW i` (R146) -/
  | rdw (i : Fin 16)
  /-- `WRB j` (R147) -/
  | wrb (j : Fin 64)
  /-- `COMP` (R164) -/
  | comp
  /-- `ROTR n` (R111) -/
  | rotr (n : Fin 32)
  /-- `SHR n` (R112) -/
  | shr (n : Fin 32)
  /-- `CH` (R113) -/
  | ch
  /-- `MAJ` (R114) -/
  | maj
  /-- `BSIG0` (R115) -/
  | bsig0
  /-- `BSIG1` (R116) -/
  | bsig1
  /-- `SSIG0` (R117) -/
  | ssig0
  /-- `SSIG1` (R118) -/
  | ssig1
  /-- `ADD` (R119) -/
  | add
  /-- `ADD3` (R120) -/
  | add3
  /-- `WRY` (R148) -/
  | wry
  /-- `WRZ` (R149) -/
  | wrz
  /-- `RDK i` (R134) -/
  | rdk (i : Fin 64)
  /-- `RDIV i` (R135) -/
  | rdiv (i : Fin 8)
  deriving DecidableEq, Repr

/-- R76, column "format". -/
def Instr.format : Instr → Format
  | .nop | .init | .comp | .wry | .wrz => .N
  | .wrh _ | .rdh _ | .rdiv _ => .I3
  | .wrw _ | .rdw _ => .I4
  | .wrb _ | .rdk _ => .I6
  | .rotr _ | .shr _ => .AS
  | .ch | .maj | .bsig0 | .bsig1 | .ssig0 | .ssig1 | .add | .add3 => .A

/-- R72: the value of the command's one operand field, 0 where its format has none. -/
def Instr.operand : Instr → Nat
  | .nop | .init | .comp | .wry | .wrz => 0
  | .wrh i | .rdh i | .rdiv i => i
  | .wrw i | .rdw i => i
  | .wrb j | .rdk j => j
  | .rotr n | .shr n => n
  | .ch | .maj | .bsig0 | .bsig1 | .ssig0 | .ssig1 | .add | .add3 => 0

/-- R20, R50: where a host access starts. The window is the 16 bytes from `BASE`; everything
else is another device's or nobody's. -/
inductive Place where
  /-- byte offset from `BASE`, inside the window -/
  | window (off : Fin 16)
  /-- a host address outside the window -/
  | elsewhere (addr : Nat)
  deriving DecidableEq, Repr

/-- R5, R57, R230: one input of the engine, each performed atomically. -/
inductive Event where
  /-- `MemRead` of `size` bytes (R12) -/
  | read (p : Place) (size : Nat)
  /-- `MemWrite` of `size` bytes (R12). A 4-byte write carries its 32-bit value; a write of another
  size carries a value too, which the engine never looks at (R52). -/
  | write (p : Place) (size : Nat) (v : Word)
  /-- the engine sequencer's turn to take its step, where it has one (R163) -/
  | turn
  /-- the reset input is asserted (R230) -/
  | reset
  deriving DecidableEq, Repr

/-- R24, R216: the three error flags. -/
inductive ErrFlag where
  /-- illegal command word (R211) -/
  | CMDERR
  /-- command while busy (R212) -/
  | BUSYERR
  /-- wrong access size or alignment (R213) -/
  | ACCERR
  deriving DecidableEq, Repr

/-- R20: the four registers of the window. -/
inductive Reg where
  | CMD
  | DATA
  | RESULT
  | STATUS
  deriving DecidableEq, Repr

end Sys2Proof
end

