-- ==== Sys2Proof/WellFormed.lean ====
section
/-! DEFINITION. The checks on what a host may write down: an operand against its format (R72 to
R74), a command word against the reserved-bit and reserved-class rules (R71, R78), and an access
against the only admitted shape (R51). A command word is checked here from R72 and R78 alone,
without the match/mask table that Decode.lean uses. -/

namespace Sys2Proof

/-- R72: one more than the greatest operand a format can encode; 1 where it has no operand field. -/
def Format.bound : Format → Nat
  | .N | .A => 1
  | .I3 => 8
  | .I4 => 16
  | .I6 => 64
  | .AS => 32

/-- R73, R74: an assembler operand fits its format. -/
def Format.operandOk (f : Format) (n : Nat) : Bool := decide (n < f.bound)

/-- R73: a command's operand fits its format. -/
def Instr.wellFormed (i : Instr) : Bool := i.format.operandOk i.operand

/-- R70: `cmd.OPC = cmd[31:28]`. -/
def fieldOPC (w : Word) : Nat := (w.extractLsb' 28 4).toNat

/-- R70: `cmd.FN = cmd[27:24]`. -/
def fieldFN (w : Word) : Nat := (w.extractLsb' 24 4).toNat

/-- R78, first row: the operation class is not one of the reserved `0xD`, `0xE`, `0xF`. -/
def opcOk (w : Word) : Bool := decide (fieldOPC w < 0xD)

/-- R78, second row: under `OPC = 0x8` the function is not one of the reserved `0xA .. 0xF`. -/
def fnOk (w : Word) : Bool := decide (fieldOPC w = 8 → fieldFN w < 0xA)

/-- R72: the operand bits of a format. -/
def Format.operandMask : Format → Word
  | .N | .A => 0
  | .I3 => 0x00000007
  | .I4 => 0x0000000F
  | .I6 => 0x0000003F
  | .AS => 0x001F0000

/-- R76: the format that `OPC` and `FN` select (`N` for the reserved classes, which `opcOk` and
`fnOk` refuse). -/
def wordFormat (w : Word) : Format :=
  match fieldOPC w with
  | 0x2 | 0x3 | 0xC => .I3
  | 0x4 | 0x5 => .I4
  | 0x6 | 0xB => .I6
  | 0x8 => if fieldFN w < 2 then .AS else .A
  | _ => .N

/-- R71, R72: the bits a command does not use: all but `OPC`, `FN` under `OPC = 0x8`, and the
operand field of the format. -/
def reservedMask (w : Word) : Word :=
  ~~~(0xF0000000 ||| (if fieldOPC w = 8 then 0x0F000000 else 0) ||| (wordFormat w).operandMask)

/-- R71, R78 third row: every reserved bit of the word is 0. -/
def reservedOk (w : Word) : Bool := decide (w &&& reservedMask w = 0)

/-- R78: the word is not illegal. -/
def wellFormedWord (w : Word) : Bool := opcOk w && fnOk w && reservedOk w

/-- R51: the access starts at an offset that is a multiple of 4. -/
def alignedOk (off : Fin 16) : Bool := decide (off.val % 4 = 0)

/-- R51: the access moves 4 bytes. -/
def sizeOk (size : Nat) : Bool := decide (size = 4)

/-- R51: the only admitted access. -/
def admitted (off : Fin 16) (size : Nat) : Bool := sizeOk size && alignedOk off

/-- R20, R50: the access starts in the window. -/
def Place.inWindow : Place → Bool
  | .window _ => true
  | .elsewhere _ => false

end Sys2Proof
end

