-- ==== Sys2Proof/Decode.lean ====
section
/-! DEFINITION. The command decoder: the match/mask table of R76 and its lookup (R77), total on
all 2^32 words; then the encoder, written from the same table and formats. -/

namespace Sys2Proof

/-- R76: one row of the opcode map. `build` assembles the command from its operand field. -/
structure Row where
  /-- column "match" -/
  pattern : Word
  /-- column "mask" -/
  mask : Word
  /-- the command of the row, with the operand the word holds -/
  build : Word → Instr

/-- R76: the word selects the row. -/
def Row.selects (r : Row) (w : Word) : Bool := decide (w &&& r.mask = r.pattern)

/-- R73: `zext(cmd[2:0])`. -/
def idx3 (w : Word) : Fin 8 := (w.extractLsb' 0 3).toFin

/-- R73: `zext(cmd[3:0])`. -/
def idx4 (w : Word) : Fin 16 := (w.extractLsb' 0 4).toFin

/-- R73: `zext(cmd[5:0])`. -/
def idx6 (w : Word) : Fin 64 := (w.extractLsb' 0 6).toFin

/-- R74: `zext(cmd[20:16])`. -/
def sh5 (w : Word) : Fin 32 := (w.extractLsb' 16 5).toFin

/-- R76, the rows with `OPC` 0x0 to 0x7. -/
def rowsTransfer : List Row :=
  [ ⟨0x00000000, 0xFFFFFFFF, fun _ => .nop⟩,
    ⟨0x10000000, 0xFFFFFFFF, fun _ => .init⟩,
    ⟨0x20000000, 0xFFFFFFF8, fun w => .wrh (idx3 w)⟩,
    ⟨0x30000000, 0xFFFFFFF8, fun w => .rdh (idx3 w)⟩,
    ⟨0x40000000, 0xFFFFFFF0, fun w => .wrw (idx4 w)⟩,
    ⟨0x50000000, 0xFFFFFFF0, fun w => .rdw (idx4 w)⟩,
    ⟨0x60000000, 0xFFFFFFC0, fun w => .wrb (idx6 w)⟩,
    ⟨0x70000000, 0xFFFFFFFF, fun _ => .comp⟩ ]

/-- R76, the rows with `OPC` 0x8. -/
def rowsAlu : List Row :=
  [ ⟨0x80000000, 0xFFE0FFFF, fun w => .rotr (sh5 w)⟩,
    ⟨0x81000000, 0xFFE0FFFF, fun w => .shr (sh5 w)⟩,
    ⟨0x82000000, 0xFFFFFFFF, fun _ => .ch⟩,
    ⟨0x83000000, 0xFFFFFFFF, fun _ => .maj⟩,
    ⟨0x84000000, 0xFFFFFFFF, fun _ => .bsig0⟩,
    ⟨0x85000000, 0xFFFFFFFF, fun _ => .bsig1⟩,
    ⟨0x86000000, 0xFFFFFFFF, fun _ => .ssig0⟩,
    ⟨0x87000000, 0xFFFFFFFF, fun _ => .ssig1⟩,
    ⟨0x88000000, 0xFFFFFFFF, fun _ => .add⟩,
    ⟨0x89000000, 0xFFFFFFFF, fun _ => .add3⟩ ]

/-- R76, the rows with `OPC` 0x9 to 0xC. -/
def rowsOperandRom : List Row :=
  [ ⟨0x90000000, 0xFFFFFFFF, fun _ => .wry⟩,
    ⟨0xA0000000, 0xFFFFFFFF, fun _ => .wrz⟩,
    ⟨0xB0000000, 0xFFFFFFC0, fun w => .rdk (idx6 w)⟩,
    ⟨0xC0000000, 0xFFFFFFF8, fun w => .rdiv (idx3 w)⟩ ]

/-- R76: the complete opcode map, in the spec's order. -/
def opcodeTable : List Row := rowsTransfer ++ rowsAlu ++ rowsOperandRom

/-- R77: look up the row the word selects; `none` where no row matches (R78). -/
def decode (w : Word) : Option Instr :=
  (opcodeTable.find? (fun r => r.selects w)).map (fun r => r.build w)

/-- R70: an index operand stands in `IDX`, from bit 0. -/
def putIDX (n : Nat) : Word := BitVec.ofNat 32 n

/-- R70: an amount stands in `SH`, from bit 16. -/
def putSH (n : Nat) : Word := BitVec.ofNat 32 n <<< 16

/-- R72, R76: the command word of each command. -/
def encode : Instr → Word
  | .nop => 0x00000000
  | .init => 0x10000000
  | .wrh i => 0x20000000 ||| putIDX i
  | .rdh i => 0x30000000 ||| putIDX i
  | .wrw i => 0x40000000 ||| putIDX i
  | .rdw i => 0x50000000 ||| putIDX i
  | .wrb j => 0x60000000 ||| putIDX j
  | .comp => 0x70000000
  | .rotr n => 0x80000000 ||| putSH n
  | .shr n => 0x81000000 ||| putSH n
  | .ch => 0x82000000
  | .maj => 0x83000000
  | .bsig0 => 0x84000000
  | .bsig1 => 0x85000000
  | .ssig0 => 0x86000000
  | .ssig1 => 0x87000000
  | .add => 0x88000000
  | .add3 => 0x89000000
  | .wry => 0x90000000
  | .wrz => 0xA0000000
  | .rdk i => 0xB0000000 ||| putIDX i
  | .rdiv i => 0xC0000000 ||| putIDX i

/-- R80: every command is one 32-bit word. The word is the low `nbits` bits of `w`, zeros above;
a number that needs more than 32 bits is no command word. -/
def decodeTableWord (nbits w : Nat) : Option Instr :=
  if w % 2 ^ nbits < 2 ^ 32 then decode (BitVec.ofNat 32 (w % 2 ^ nbits)) else none

end Sys2Proof
end

