-- ==== Sys2Proof/Config.lean ====
section
/-! DEFINITION. What is fixed for one engine and is not state (R8, R35, R40): the constant ROM
(`K`, `IV`) with the contents R130 and R131 give, and the three open parameters `BASE`,
`CYC_PER_STEP` and `BUS_LANES`, of which only the constraints R8 states are known. -/

namespace Sys2Proof.Config

/-- R130, row 0 of the table: `K[0..7]`. -/
def kRow0 : Vector Word 8 :=
  #v[0x428a2f98, 0x71374491, 0xb5c0fbcf, 0xe9b5dba5, 0x3956c25b, 0x59f111f1, 0x923f82a4, 0xab1c5ed5]

/-- R130, row 1 of the table: `K[8..15]`. -/
def kRow1 : Vector Word 8 :=
  #v[0xd807aa98, 0x12835b01, 0x243185be, 0x550c7dc3, 0x72be5d74, 0x80deb1fe, 0x9bdc06a7, 0xc19bf174]

/-- R130, row 2 of the table: `K[16..23]`. -/
def kRow2 : Vector Word 8 :=
  #v[0xe49b69c1, 0xefbe4786, 0x0fc19dc6, 0x240ca1cc, 0x2de92c6f, 0x4a7484aa, 0x5cb0a9dc, 0x76f988da]

/-- R130, row 3 of the table: `K[24..31]`. -/
def kRow3 : Vector Word 8 :=
  #v[0x983e5152, 0xa831c66d, 0xb00327c8, 0xbf597fc7, 0xc6e00bf3, 0xd5a79147, 0x06ca6351, 0x14292967]

/-- R130, row 4 of the table: `K[32..39]`. -/
def kRow4 : Vector Word 8 :=
  #v[0x27b70a85, 0x2e1b2138, 0x4d2c6dfc, 0x53380d13, 0x650a7354, 0x766a0abb, 0x81c2c92e, 0x92722c85]

/-- R130, row 5 of the table: `K[40..47]`. -/
def kRow5 : Vector Word 8 :=
  #v[0xa2bfe8a1, 0xa81a664b, 0xc24b8b70, 0xc76c51a3, 0xd192e819, 0xd6990624, 0xf40e3585, 0x106aa070]

/-- R130, row 6 of the table: `K[48..55]`. -/
def kRow6 : Vector Word 8 :=
  #v[0x19a4c116, 0x1e376c08, 0x2748774c, 0x34b0bcb5, 0x391c0cb3, 0x4ed8aa4a, 0x5b9cca4f, 0x682e6ff3]

/-- R130, row 7 of the table: `K[56..63]`. -/
def kRow7 : Vector Word 8 :=
  #v[0x748f82ee, 0x78a5636f, 0x84c87814, 0x8cc70208, 0x90befffa, 0xa4506ceb, 0xbef9a3f7, 0xc67178f2]

/-- R130: the round-constant ROM `K[0..63]`. The spec supplies the values from general knowledge
and R133 says how they were recomputed (log entry 1). -/
def K : Vector Word 64 :=
  kRow0 ++ kRow1 ++ kRow2 ++ kRow3 ++ kRow4 ++ kRow5 ++ kRow6 ++ kRow7

/-- R131: the initial-hash-value ROM `IV[0..7]` (log entry 1). -/
def IV : Vector Word 8 :=
  #v[0x6a09e667, 0xbb67ae85, 0x3c6ef372, 0xa54ff53a, 0x510e527f, 0x9b05688c, 0x1f83d9ab, 0x5be0cd19]

/-- R8: which multiple of 16 the platform chose for `BASE`; no value is known (log entry 2). -/
opaque baseIndex : Nat

/-- R8, R50: the byte address of the register window, a multiple of 16. -/
def BASE : Nat := 16 * baseIndex

/-- R8: how far `CYC_PER_STEP` lies above its least value 1; no value is known (log entry 2). -/
opaque cycAboveOne : Nat

/-- R8, R241: clock cycles per engine-sequencer step, at least 1 and the same for every step. -/
def CYC_PER_STEP : Nat := cycAboveOne + 1

/-- R8, R68: the bus byte lane that carries each byte of a register value (byte 0 is bits 7..0);
no value is known (log entry 2). -/
opaque BUS_LANES : Equiv.Perm (Fin 4)

end Sys2Proof.Config
end

