-- ==== Sys2Proof/Machine/State.lean ====
section
/-! DEFINITION. The engine's whole state (R40) as plain data, the inputs not yet performed and the
read values already returned to the host (the model's own two fields), the reset state (R38),
and the reasons a step can stop. -/

namespace Sys2Proof.Machine

/-- R28: the working variables `a, b, c, d, e, f, g, h`. -/
structure WorkVars where
  a : Word
  b : Word
  c : Word
  d : Word
  e : Word
  f : Word
  g : Word
  h : Word
  deriving DecidableEq, Repr

/-- R12: what one `MemRead` returned to the host: how many bytes, and their value. -/
structure BusReply where
  size : Nat
  value : Word
  deriving DecidableEq, Repr

/-- R40: the whole state, under the spec's own names. The last two fields are the model's
(log entries 4 and 5): `pending` is what the outside world does next, in order, and says which of
the two agents of R5 moves; `replies` is what the host's reads have returned, newest first (R6). -/
structure State where
  /-- R26: hash state -/
  H : Vector Word 8
  /-- R30: block buffer -/
  M : Vector Byte 64
  /-- R29: message schedule -/
  W : Vector Word 64
  /-- R28: working variables `a..h` -/
  v : WorkVars
  /-- R27: round counter, 0..64 -/
  t : Fin 65
  /-- R22 -/
  DATA : Word
  /-- R23 -/
  RESULT : Word
  /-- R31 -/
  OPY : Word
  /-- R31 -/
  OPZ : Word
  /-- R32 -/
  BUSY : Bool
  /-- R33 -/
  DONE : Bool
  /-- R34, R211 -/
  CMDERR : Bool
  /-- R34, R212 -/
  BUSYERR : Bool
  /-- R34, R213 -/
  ACCERR : Bool
  /-- the model's own: inputs not yet performed, the next one first -/
  pending : List Event
  /-- the model's own: what the host's reads returned, newest first -/
  replies : List BusReply
  deriving DecidableEq, Repr

/-- R210: the engine itself never stops, so no command and no engine step raises a fault. The one
fault is the model's own, for an access that is not this engine's. -/
inductive Fault where
  /-- Raised by `step` for a host access that starts outside the 16-byte window (R20, R50): no
  register exists there and what the platform does is not the spec's. SAFE: the model stops where
  the platform would go on (log entry 6). -/
  | outsideWindow (addr : Nat)
  deriving DecidableEq, Repr

/-- Why an instruction could have no meaning. -/
inductive Refusal where
  /-- For an arm of `exec` without a meaning; no arm of this model is one. SAFE. -/
  | notModelled (mnemonic : String)
  deriving DecidableEq, Repr

/-- R38: the state after reset. `pending` and `replies` are empty (log entries 4 and 5). -/
def State.reset : State where
  H := Config.IV
  M := Vector.replicate 64 0
  W := Vector.replicate 64 0
  v := ⟨0, 0, 0, 0, 0, 0, 0, 0⟩
  t := 0
  DATA := 0
  RESULT := 0
  OPY := 0
  OPZ := 0
  BUSY := false
  DONE := false
  CMDERR := false
  BUSYERR := false
  ACCERR := false
  pending := []
  replies := []

end Sys2Proof.Machine
end

