-- ==== Sys2Proof/Machine/Operands.lean ====
section
/-! DEFINITION. The operand forms of the commands (R75, R73) and the byte order of the block
buffer (R64 to R66): how bytes make a word, and where a word's bytes go. -/

namespace Sys2Proof.Machine

/-- R75, R110: operand `x` is `DATA` as held when the command is written. -/
def operandX (s : State) : Word := s.DATA

/-- R75, R110: ALU operand `y`. -/
def operandY (s : State) : Word := s.OPY

/-- R75, R110: ALU operand `z`. -/
def operandZ (s : State) : Word := s.OPZ

/-- R10: `{b0, b1, b2, b3}`, with `b0` in the most significant byte. -/
def concatBytes (b0 b1 b2 b3 : Byte) : Word :=
  (b0 ++ b1 ++ b2 ++ b3).cast (by decide)

/-- R65: byte `k` of a word in message order: byte 0 is `v[31:24]`, byte 3 is `v[7:0]`. -/
def byteOfWord (v : Word) (k : Nat) : Byte := v.extractLsb' (24 - 8 * k) 8

/-- R64: `BlockWord(M, i) = {M[4i], M[4i+1], M[4i+2], M[4i+3]}`. -/
def blockWord (M : Vector Byte 64) (i : Fin 16) : Word :=
  concatBytes (M[4 * i.val]'(by omega)) (M[4 * i.val + 1]'(by omega))
    (M[4 * i.val + 2]'(by omega)) (M[4 * i.val + 3]'(by omega))

/-- R65, R145: the block buffer after `v` is stored big-endian as block word `i`. -/
def putBlockWord (M : Vector Byte 64) (i : Fin 16) (v : Word) : Vector Byte 64 :=
  (((M.set (4 * i.val) (byteOfWord v 0) (by omega)).set (4 * i.val + 1) (byteOfWord v 1)
    (by omega)).set (4 * i.val + 2) (byteOfWord v 2) (by omega)).set (4 * i.val + 3)
    (byteOfWord v 3) (by omega)

/-- R66, R147: the low byte `v[7:0]` of a word. -/
def lowByte (v : Word) : Byte := v.extractLsb' 0 8

/-- R28, R164: the working variables a compression starts with: `a` is `H[0]`, ..., `h` is `H[7]`. -/
def WorkVars.ofHash (H : Vector Word 8) : WorkVars :=
  ⟨H[0], H[1], H[2], H[3], H[4], H[5], H[6], H[7]⟩

/-- R166: `(v_0..v_7) = (a,b,c,d,e,f,g,h)`. -/
def WorkVars.toVector (v : WorkVars) : Vector Word 8 := #v[v.a, v.b, v.c, v.d, v.e, v.f, v.g, v.h]

end Sys2Proof.Machine
end

