-- ==== Sys2Proof/Machine/Ops.lean ====
section
/-! DEFINITION. The named updates of the state, raising an error (the engine's only "exception",
R214) with the clearing write that ends it (R25, R217), reset (R230), and the check every command
makes before it has its effect. -/

namespace Sys2Proof.Machine

/-- R23: write `RESULT`. -/
def State.setRESULT (s : State) (x : Word) : State := { s with RESULT := x }

/-- R22: write `DATA`. -/
def State.setDATA (s : State) (x : Word) : State := { s with DATA := x }

/-- R31: write `OPY`. -/
def State.setOPY (s : State) (x : Word) : State := { s with OPY := x }

/-- R31: write `OPZ`. -/
def State.setOPZ (s : State) (x : Word) : State := { s with OPZ := x }

/-- R26: replace the hash state. -/
def State.setH (s : State) (H : Vector Word 8) : State := { s with H := H }

/-- R30: replace the block buffer. -/
def State.setM (s : State) (M : Vector Byte 64) : State := { s with M := M }

/-- R33: write the done bit. -/
def State.setDONE (s : State) (b : Bool) : State := { s with DONE := b }

/-- R6: the host's read returned this. -/
def State.pushReply (s : State) (r : BusReply) : State := { s with replies := r :: s.replies }

/-- The inputs that remain to be performed. -/
def State.setPending (s : State) (es : List Event) : State := { s with pending := es }

/-- R214: `raise Err(F)`: the flag becomes 1 and nothing else changes. No state is saved, no mode
changes and control goes nowhere (R219). -/
def State.raiseErr (s : State) : ErrFlag → State
  | .CMDERR => { s with CMDERR := true }
  | .BUSYERR => { s with BUSYERR := true }
  | .ACCERR => { s with ACCERR := true }

/-- R25, R217: a host write of `x` to `STATUS`, the only "return" from an error: each error flag
whose bit is 1 in `x` is cleared, every other bit of `x` is ignored. -/
def State.clearErr (s : State) (x : Word) : State :=
  { s with
    CMDERR := s.CMDERR && !x.getLsbD 2
    BUSYERR := s.BUSYERR && !x.getLsbD 3
    ACCERR := s.ACCERR && !x.getLsbD 4 }

/-- R230: every piece of the engine's state takes its reset value. What the outside world does
next and what the host has already read are not the engine's (log entries 4 and 5). -/
def State.resetEngine (s : State) : State :=
  { State.reset with pending := s.pending, replies := s.replies }

/-- R110, R140, R164, R212: a command has its effect when `BUSY = 0`; while `BUSY = 1` it is
refused with `BUSYERR` and has no effect at all. -/
def whenIdle (effect : State → State) (s : State) : Host.Outcome State Fault Refusal :=
  if s.BUSY then .next (s.raiseErr .BUSYERR) else .next (effect s)

/-- The next state of an outcome that has one. -/
def nextState? : Host.Outcome State Fault Refusal → Option State
  | .next s => some s
  | .fault _ => none
  | .refused _ => none

end Sys2Proof.Machine
end

