-- ==== Sys2Proof/Machine/Flags.lean ====
section
/-! DEFINITION. The `STATUS` register as the host reads it (R24), and the cause codes of its error
flags (R216). No command computes a flag from its result (R36). -/

namespace Sys2Proof.Machine

/-- R27: `t` as the 7 bits of `STATUS.ROUND`. -/
def roundField (t : Fin 65) : BitVec 7 := BitVec.ofNat 7 t.val

/-- R24, R53: `{0^17, t[6:0], 0^3, ACCERR, BUSYERR, CMDERR, DONE, BUSY}`. -/
def statusWord (s : State) : Word :=
  (0#17 ++ roundField s.t ++ 0#3 ++ BitVec.ofBool s.ACCERR ++ BitVec.ofBool s.BUSYERR ++
    BitVec.ofBool s.CMDERR ++ BitVec.ofBool s.DONE ++ BitVec.ofBool s.BUSY).cast (by decide)

/-- R216: the cause code of an error is its `STATUS` bit number. -/
def causeCode : ErrFlag → Nat
  | .CMDERR => 2
  | .BUSYERR => 3
  | .ACCERR => 4

/-- R34: the flag's value. -/
def State.flag (s : State) : ErrFlag → Bool
  | .CMDERR => s.CMDERR
  | .BUSYERR => s.BUSYERR
  | .ACCERR => s.ACCERR

end Sys2Proof.Machine
end

