-- ==== Sys2Proof/Machine/Functions.lean ====
section
/-! DEFINITION. The pure functions of the engine: the word ALU and the adder tree (R100 to R108),
and the compression function with its message schedule and rounds (R160 to R162, R169). -/

namespace Sys2Proof.Machine

/-- R100: circular right rotation, `0 ≤ n < 32`. -/
def rotr (x : Word) (n : Nat) : Word :=
  if n = 0 then x else (x >>> n) ||| (x <<< (32 - n))

/-- R101: logical right shift, `0 ≤ n < 32`. -/
def shr (x : Word) (n : Nat) : Word := x >>> n

/-- R102: `(x ∧ y) ⊕ (¬x ∧ z)`. -/
def ch (x y z : Word) : Word := (x &&& y) ^^^ (~~~x &&& z)

/-- R103: `(x ∧ y) ⊕ (x ∧ z) ⊕ (y ∧ z)`. -/
def maj (x y z : Word) : Word := (x &&& y) ^^^ (x &&& z) ^^^ (y &&& z)

/-- R104: `Σ0`. -/
def bigSigma0 (x : Word) : Word := rotr x 2 ^^^ rotr x 13 ^^^ rotr x 22

/-- R105: `Σ1`. -/
def bigSigma1 (x : Word) : Word := rotr x 6 ^^^ rotr x 11 ^^^ rotr x 25

/-- R106: `σ0`. -/
def smallSigma0 (x : Word) : Word := rotr x 7 ^^^ rotr x 18 ^^^ shr x 3

/-- R107: `σ1`. -/
def smallSigma1 (x : Word) : Word := rotr x 17 ^^^ rotr x 19 ^^^ shr x 10

/-- R108: the adder tree of two words. -/
def add2 (x y : Word) : Word := x + y

/-- R108: the adder tree of three words. -/
def add3 (x y z : Word) : Word := x + y + z

/-- R108, R160: the adder tree of four words. -/
def add4 (x y z u : Word) : Word := x + y + z + u

/-- R108, R161: the adder tree of five words. -/
def add5 (x y z u w : Word) : Word := x + y + z + u + w

/-- R160: the words a block gives the schedule; the rest is filled in by `scheduleUpTo`. -/
def scheduleStart (B : Vector Byte 64) : Vector Word 64 :=
  Vector.ofFn fun i => if h : i.val < 16 then blockWord B ⟨i.val, h⟩ else 0

/-- R160, R165: the schedule word of round `t`: for `t < 16` the block's, from 16 on
`add(σ1(w[t-2]), w[t-7], σ0(w[t-15]), w[t-16])`. -/
def scheduleWord (w : Vector Word 64) (t : Fin 64) : Word :=
  if t.val < 16 then w[t.val]
  else add4 (smallSigma1 (w[t.val - 2]'(by omega))) (w[t.val - 7]'(by omega))
    (smallSigma0 (w[t.val - 15]'(by omega))) (w[t.val - 16]'(by omega))

/-- R160: the schedule of block `B` with the words of rounds `0 .. k-1` computed. -/
def scheduleUpTo (B : Vector Byte 64) : Nat → Vector Word 64
  | 0 => scheduleStart B
  | k + 1 =>
    if h : k < 64 then
      (scheduleUpTo B k).set k (scheduleWord (scheduleUpTo B k) ⟨k, h⟩) h
    else scheduleUpTo B k

/-- R160: `Schedule(B)`. -/
def schedule (B : Vector Byte 64) : Vector Word 64 := scheduleUpTo B 64

/-- R161: `T1 = add(h, Σ1(e), ch(e,f,g), K[t], wt)`. -/
def temp1 (t : Fin 64) (v : WorkVars) (wt : Word) : Word :=
  add5 v.h (bigSigma1 v.e) (ch v.e v.f v.g) (Config.K[t.val]) wt

/-- R161: `T2 = add(Σ0(a), maj(a,b,c))`. -/
def temp2 (v : WorkVars) : Word := add2 (bigSigma0 v.a) (maj v.a v.b v.c)

/-- R161: `Round(t, (a,b,c,d,e,f,g,h), wt)`. -/
def compressionRound (t : Fin 64) (v : WorkVars) (wt : Word) : WorkVars :=
  { a := add2 (temp1 t v wt) (temp2 v)
    b := v.a
    c := v.b
    d := v.c
    e := add2 v.d (temp1 t v wt)
    f := v.e
    g := v.f
    h := v.g }

/-- R162: the working variables after rounds `0 .. k-1`, from hash state `H` with schedule `w`. -/
def varsAfter (H : Vector Word 8) (w : Vector Word 64) : Nat → WorkVars
  | 0 => WorkVars.ofHash H
  | k + 1 => if h : k < 64 then compressionRound ⟨k, h⟩ (varsAfter H w k) w[k] else varsAfter H w k

/-- R162, R166: elementwise wrapping sum of the old hash state and the working variables. -/
def addHash (H : Vector Word 8) (v : WorkVars) : Vector Word 8 :=
  Vector.ofFn fun i => add2 H[i.val] v.toVector[i.val]

/-- R162: `Compress1(H, B)`. -/
def compress1 (H : Vector Word 8) (B : Vector Byte 64) : Vector Word 8 :=
  addHash H (varsAfter H (schedule B) 64)

/-- R169: `CompressSeq(H, [B1, ..., Bn])`. -/
def compressSeq (H : Vector Word 8) : List (Vector Byte 64) → Vector Word 8
  | [] => H
  | B :: rest => compressSeq (compress1 H B) rest

end Sys2Proof.Machine
end

