-- ==== Sys2Proof/Machine/Alu.lean ====
section
/-! DEFINITION. The ten ALU commands (R110 to R120): each computes its function of
`x = DATA`, `y = OPY`, `z = OPZ` and its shift amount into `RESULT` and changes nothing else. -/

namespace Sys2Proof.Machine

/-- R110: `RESULT <- F(x, y, z)`. -/
def aluCommand (F : Word → Word → Word → Word) (s : State) : Host.Outcome State Fault Refusal :=
  whenIdle (fun s => s.setRESULT (F (operandX s) (operandY s) (operandZ s))) s

/-- R111: `RESULT <- rotr(x, n)`. -/
def execRotr (n : Fin 32) (s : State) : Host.Outcome State Fault Refusal :=
  aluCommand (fun x _ _ => rotr x n) s

/-- R112: `RESULT <- shr(x, n)`. -/
def execShr (n : Fin 32) (s : State) : Host.Outcome State Fault Refusal :=
  aluCommand (fun x _ _ => shr x n) s

/-- R113: `RESULT <- ch(x, y, z)`. -/
def execCh (s : State) : Host.Outcome State Fault Refusal := aluCommand ch s

/-- R114: `RESULT <- maj(x, y, z)`. -/
def execMaj (s : State) : Host.Outcome State Fault Refusal := aluCommand maj s

/-- R115: `RESULT <- Σ0(x)`. -/
def execBsig0 (s : State) : Host.Outcome State Fault Refusal :=
  aluCommand (fun x _ _ => bigSigma0 x) s

/-- R116: `RESULT <- Σ1(x)`. -/
def execBsig1 (s : State) : Host.Outcome State Fault Refusal :=
  aluCommand (fun x _ _ => bigSigma1 x) s

/-- R117: `RESULT <- σ0(x)`. -/
def execSsig0 (s : State) : Host.Outcome State Fault Refusal :=
  aluCommand (fun x _ _ => smallSigma0 x) s

/-- R118: `RESULT <- σ1(x)`. -/
def execSsig1 (s : State) : Host.Outcome State Fault Refusal :=
  aluCommand (fun x _ _ => smallSigma1 x) s

/-- R119: `RESULT <- add(x, y)`. -/
def execAdd (s : State) : Host.Outcome State Fault Refusal :=
  aluCommand (fun x y _ => add2 x y) s

/-- R120: `RESULT <- add(x, y, z)`. -/
def execAdd3 (s : State) : Host.Outcome State Fault Refusal := aluCommand add3 s

end Sys2Proof.Machine
end

