-- ==== Sys2Proof/Machine/Compression.lean ====
section
/-! DEFINITION. `COMP` (R164) and the engine sequencer's own steps: the round step (R165), the
update step (R166) and which of them is enabled (R163). -/

namespace Sys2Proof.Machine

/-- R164: `W[i] <- {M[4i], M[4i+1], M[4i+2], M[4i+3]}` for `i` in 0..15; `W[16..63]` keep. -/
def loadSchedule (M : Vector Byte 64) (W : Vector Word 64) : Vector Word 64 :=
  Vector.ofFn fun i => if h : i.val < 16 then blockWord M ⟨i.val, h⟩ else W[i.val]

/-- R164: the acceptance step of a compression. -/
def State.acceptComp (s : State) : State :=
  { s with
    W := loadSchedule s.M s.W
    v := WorkVars.ofHash s.H
    t := 0
    BUSY := true
    DONE := false }

/-- R164: start compressing the block in `M` into `H`. -/
def execComp (s : State) : Host.Outcome State Fault Refusal := whenIdle State.acceptComp s

/-- R165: the round step for round `t`. -/
def State.roundStep (s : State) (t : Fin 64) : State :=
  { s with
    W := s.W.set t.val (scheduleWord s.W t)
    v := compressionRound t s.v (scheduleWord s.W t)
    t := t.succ }

/-- R166: the update step. -/
def State.updateStep (s : State) : State :=
  { s with
    H := addHash s.H s.v
    BUSY := false
    DONE := true }

/-- R163: the sequencer's step: a round while `t ≤ 63`, the update at `t = 64`, and none (the
state as it is) while `BUSY = 0`. -/
def State.sequencerStep (s : State) : State :=
  if s.BUSY then
    if h : s.t.val < 64 then s.roundStep ⟨s.t.val, h⟩ else s.updateStep
  else s

/-- R239, R241: how many sequencer steps follow a command's own step. -/
def sequencerSteps : Instr → Nat
  | .comp => 65
  | .nop | .init | .wrh _ | .rdh _ | .wrw _ | .rdw _ | .wrb _ => 0
  | .rotr _ | .shr _ | .ch | .maj | .bsig0 | .bsig1 | .ssig0 | .ssig1 | .add | .add3 => 0
  | .wry | .wrz | .rdk _ | .rdiv _ => 0

/-- R241: clock cycles after a command's acceptance. -/
def cyclesAfterAcceptance (i : Instr) : Nat := sequencerSteps i * Config.CYC_PER_STEP

end Sys2Proof.Machine
end

