-- ==== Sys2Proof/Machine/Rom.lean ====
section
/-! DEFINITION. The two ROM read commands (R134, R135). -/

namespace Sys2Proof.Machine

/-- R134: `RESULT <- K[i]`. -/
def execRdk (i : Fin 64) (s : State) : Host.Outcome State Fault Refusal :=
  whenIdle (fun s => s.setRESULT Config.K[i.val]) s

/-- R135: `RESULT <- IV[i]`; `H` is neither read nor changed. -/
def execRdiv (i : Fin 8) (s : State) : Host.Outcome State Fault Refusal :=
  whenIdle (fun s => s.setRESULT Config.IV[i.val]) s

end Sys2Proof.Machine
end

