-- ==== Sys2Proof/Machine/Transfer.lean ====
section
/-! DEFINITION. The transfer commands (R140 to R149): words between `DATA` or `RESULT` and the
hash state, the block buffer and the ALU operand registers. -/

namespace Sys2Proof.Machine

/-- R141: no state changes. -/
def execNop (s : State) : Host.Outcome State Fault Refusal := whenIdle (fun s => s) s

/-- R142: `H[i] <- IV[i]` for all `i`; `DONE <- 0`. -/
def execInit (s : State) : Host.Outcome State Fault Refusal :=
  whenIdle (fun s => (s.setH Config.IV).setDONE false) s

/-- R143: `H[i] <- x; DONE <- 0`. -/
def execWrh (i : Fin 8) (s : State) : Host.Outcome State Fault Refusal :=
  whenIdle (fun s => (s.setH (s.H.set i.val (operandX s))).setDONE false) s

/-- R144: `RESULT <- H[i]`. -/
def execRdh (i : Fin 8) (s : State) : Host.Outcome State Fault Refusal :=
  whenIdle (fun s => s.setRESULT s.H[i.val]) s

/-- R145: block word `i` of `M` becomes `x`, big-endian. -/
def execWrw (i : Fin 16) (s : State) : Host.Outcome State Fault Refusal :=
  whenIdle (fun s => s.setM (putBlockWord s.M i (operandX s))) s

/-- R146: `RESULT <- {M[4i], M[4i+1], M[4i+2], M[4i+3]}`. -/
def execRdw (i : Fin 16) (s : State) : Host.Outcome State Fault Refusal :=
  whenIdle (fun s => s.setRESULT (blockWord s.M i)) s

/-- R147: `M[j] <- x[7:0]`. -/
def execWrb (j : Fin 64) (s : State) : Host.Outcome State Fault Refusal :=
  whenIdle (fun s => s.setM (s.M.set j.val (lowByte (operandX s)))) s

/-- R148: `OPY <- x`. -/
def execWry (s : State) : Host.Outcome State Fault Refusal :=
  whenIdle (fun s => s.setOPY (operandX s)) s

/-- R149: `OPZ <- x`. -/
def execWrz (s : State) : Host.Outcome State Fault Refusal :=
  whenIdle (fun s => s.setOPZ (operandX s)) s

end Sys2Proof.Machine
end

