-- ==== Sys2Proof/Machine/Dispatch.lean ====
section
/-! DEFINITION. `exec`: one arm per row of the opcode map (R76, R77). -/

namespace Sys2Proof.Machine

def exec (i : Instr) (s : State) : Host.Outcome State Fault Refusal :=
  match i with
  | .nop => Sys2Proof.Machine.execNop s
  | .init => Sys2Proof.Machine.execInit s
  | .wrh k => Sys2Proof.Machine.execWrh k s
  | .rdh k => Sys2Proof.Machine.execRdh k s
  | .wrw k => Sys2Proof.Machine.execWrw k s
  | .rdw k => Sys2Proof.Machine.execRdw k s
  | .wrb j => Sys2Proof.Machine.execWrb j s
  | .comp => Sys2Proof.Machine.execComp s
  | .rotr n => Sys2Proof.Machine.execRotr n s
  | .shr n => Sys2Proof.Machine.execShr n s
  | .ch => Sys2Proof.Machine.execCh s
  | .maj => Sys2Proof.Machine.execMaj s
  | .bsig0 => Sys2Proof.Machine.execBsig0 s
  | .bsig1 => Sys2Proof.Machine.execBsig1 s
  | .ssig0 => Sys2Proof.Machine.execSsig0 s
  | .ssig1 => Sys2Proof.Machine.execSsig1 s
  | .add => Sys2Proof.Machine.execAdd s
  | .add3 => Sys2Proof.Machine.execAdd3 s
  | .wry => Sys2Proof.Machine.execWry s
  | .wrz => Sys2Proof.Machine.execWrz s
  | .rdk k => Sys2Proof.Machine.execRdk k s
  | .rdiv k => Sys2Proof.Machine.execRdiv k s

end Sys2Proof.Machine
end

