-- ==== Sys2Proof/Machine/Bus.lean ====
section
/-! DEFINITION. The register window: where a host address falls (R12, R50), the effects of the
admitted accesses (R53), the checking order of one access (R215), and what each input of the
engine does. -/

namespace Sys2Proof.Machine

/-- R50: the window is `BASE` to `BASE + 0xF`. -/
def placeOf (addr : Nat) : Place :=
  if h : Config.BASE ≤ addr ∧ addr < Config.BASE + 16 then
    .window ⟨addr - Config.BASE, by omega⟩
  else .elsewhere addr

/-- R12: `MemRead(addr, n)`. -/
def memRead (addr n : Nat) : Event := .read (placeOf addr) n

/-- R12: `MemWrite(addr, n, v)`. -/
def memWrite (addr n : Nat) (v : Word) : Event := .write (placeOf addr) n v

/-- R8, R68: the register value's bytes as they stand on the four bus lanes. -/
def toLanes (v : Word) : Vector Byte 4 :=
  Vector.ofFn fun lane => v.extractLsb' (8 * (Config.BUS_LANES.symm lane).val) 8

/-- R8, R68: the register value that four bus lanes carry. -/
def fromLanes (b : Vector Byte 4) : Word :=
  concatBytes b[(Config.BUS_LANES 3).val] b[(Config.BUS_LANES 2).val]
    b[(Config.BUS_LANES 1).val] b[(Config.BUS_LANES 0).val]

/-- R20: the register that holds the byte at an offset. -/
def regAt (off : Fin 16) : Reg :=
  match off.val / 4 with
  | 0 => .CMD
  | 1 => .DATA
  | 2 => .RESULT
  | _ => .STATUS

/-- R53: the value an admitted read returns. -/
def readReg (s : State) : Reg → Word
  | .CMD => 0
  | .DATA => s.DATA
  | .RESULT => s.RESULT
  | .STATUS => statusWord s

/-- R77, R215: a 4-byte aligned write of `w` to `CMD`: refused while busy, whatever the word;
`CMDERR` where the word is illegal; else the command. -/
def writeCMD (w : Word) (s : State) : Host.Outcome State Fault Refusal :=
  if s.BUSY then .next (s.raiseErr .BUSYERR)
  else
    match decode w with
    | none => .next (s.raiseErr .CMDERR)
    | some i => exec i s

/-- R53: an admitted write. -/
def writeReg (x : Word) (s : State) : Reg → Host.Outcome State Fault Refusal
  | .CMD => writeCMD x s
  | .DATA => .next (s.setDATA x)
  | .RESULT => .next s
  | .STATUS => .next (s.clearErr x)

/-- R52, R53, R215: a host read of `size` bytes at offset `off` of the window. -/
def readWindow (off : Fin 16) (size : Nat) (s : State) : State :=
  if admitted off size then s.pushReply ⟨size, readReg s (regAt off)⟩
  else (s.raiseErr .ACCERR).pushReply ⟨size, 0⟩

/-- R52, R53, R215: a host write of `size` bytes at offset `off` of the window. -/
def writeWindow (off : Fin 16) (size : Nat) (x : Word) (s : State) :
    Host.Outcome State Fault Refusal :=
  if admitted off size then writeReg x s (regAt off) else .next (s.raiseErr .ACCERR)

/-- R57: one input performed, as one step. -/
def performEvent (e : Event) (s : State) : Host.Outcome State Fault Refusal :=
  match e with
  | .read (.window off) size => .next (readWindow off size s)
  | .write (.window off) size x => writeWindow off size x s
  | .read (.elsewhere addr) _ => .fault (.outsideWindow addr)
  | .write (.elsewhere addr) _ _ => .fault (.outsideWindow addr)
  | .turn => .next s.sequencerStep
  | .reset => .next s.resetEngine

end Sys2Proof.Machine
end

