-- ==== Sys2Proof/Machine/Step.lean ====
section
/-! DEFINITION. One step of the machine (R57): the next input of `pending`; where no input is
left, the engine sequencer's step if it has one (R242: nothing holds it back), else nothing. -/

namespace Sys2Proof.Machine

def step (s : State) : Host.Outcome State Fault Refusal :=
  match s.pending with
  | [] => .next s.sequencerStep
  | e :: rest => performEvent e (s.setPending rest)

/-- The engine fetches nothing (R61): a command runs because the host writes it to `CMD`. So this
puts that write in front of the inputs; the next step performs it. Nothing else changes, so while
`BUSY = 1` the word is refused as the hardware refuses it (R212). -/
def State.withFetchWord (s : State) (nbits w : Nat) : State :=
  s.setPending (.write (.window 0) 4 (BitVec.ofNat 32 (w % 2 ^ nbits)) :: s.pending)

end Sys2Proof.Machine
end

