-- ==== Sys2Proof/Machine/Procedures.lean ====
section
/-! DEFINITION. The host's side, which is software around the engine (R4): the one-line accesses
of R82, the straight-line pseudo-instructions of R83 as the inputs they expand to, padding and
splitting, the digest as a value, and what the replies of the host's reads say (R190 to R197). The
loop `WAIT` and the programs that run on the engine are in HostProgram.lean. No rule of the engine
depends on this file. -/

namespace Sys2Proof.Machine

/-- R82: `MNEMONIC n`, a 4-byte write of the command's word to `CMD`. -/
def issue (i : Instr) : Event := .write (.window 0x0) 4 (encode i)

/-- R82: `D <- v`. -/
def writeDATA (v : Word) : Event := .write (.window 0x4) 4 v

/-- R82: `r <- DATA`. -/
def readDATA : Event := .read (.window 0x4) 4

/-- R82: `r <- RESULT`. -/
def readRESULT : Event := .read (.window 0x8) 4

/-- R82: `s <- STATUS`. -/
def readSTATUS : Event := .read (.window 0xC) 4

/-- R82: `STATUS <- v`. -/
def writeSTATUS (v : Word) : Event := .write (.window 0xC) 4 v

/-- R83: `LDW i, v`. -/
def ldw (i : Fin 16) (v : Word) : List Event := [writeDATA v, issue (.wrw i)]

/-- R83: `LDB j, v`. -/
def ldb (j : Fin 64) (v : Word) : List Event := [writeDATA v, issue (.wrb j)]

/-- R83: `SETH i, v`. -/
def seth (i : Fin 8) (v : Word) : List Event := [writeDATA v, issue (.wrh i)]

/-- R83: `SETY v`. -/
def sety (v : Word) : List Event := [writeDATA v, issue .wry]

/-- R83: `SETZ v`. -/
def setz (v : Word) : List Event := [writeDATA v, issue .wrz]

/-- R83: `GETH i -> r`. -/
def geth (i : Fin 8) : List Event := [issue (.rdh i), readRESULT]

/-- R83: `GETW i -> r`. -/
def getw (i : Fin 16) : List Event := [issue (.rdw i), readRESULT]

/-- R83: `LDBLK B`, the block's words in increasing order. -/
def ldblk (B : Vector Byte 64) : List Event :=
  (List.finRange 16).flatMap fun i => ldw i (blockWord B i)

/-- R83: `CLRERR`. -/
def clrerr : List Event := [writeSTATUS 0x0000001C]

/-- R83: `ALU3 fn, x, y, z -> r`. -/
def alu3 (fn : Instr) (x y z : Word) : List Event :=
  sety y ++ setz z ++ [writeDATA x, issue fn, readRESULT]

/-- R67, R195: `be32(v)`. -/
def be32 (v : Word) : List Byte := [byteOfWord v 0, byteOfWord v 1, byteOfWord v 2, byteOfWord v 3]

/-- R191: `be64(n)`, the most significant byte first. -/
def be64 (n : Nat) : List Byte := (List.range 8).map fun k => BitVec.ofNat 8 (n >>> (56 - 8 * k))

/-- R191, 90_conflicts.md C2: `k = (55 − L) mod 64`. -/
def zeroCount (L : Nat) : Nat := (119 - L % 64) % 64

/-- R191: `m ++ [0x80] ++ [0x00] * k ++ be64(8·L)`, for `L ≤ 2^61 − 1` (R190). -/
def pad (m : List Byte) : List Byte :=
  m ++ [0x80] ++ List.replicate (zeroCount m.length) 0 ++ be64 (8 * m.length)

/-- R192: the number of blocks of a padded message of `L` bytes. -/
def blockCount (L : Nat) : Nat := (L + 8) / 64 + 1

/-- Why a host program has no result (log entry 14). The first three are the violations of R197 and
93_implementation_defined.md section 3, faults of the host. None is a fault of the engine, and none
is ever a digest. -/
inductive HostStop where
  /-- Raised by `splitBlocks`: the padded length is no multiple of 64 (R193, R197). SAFE. -/
  | paddedLength
  /-- Raised by `splitBlocks`: the padded length gives another number of blocks than R192's. SAFE. -/
  | blockCount
  /-- Raised by `digestOfReplies` and `checkedRun`: some command was refused (R195, R197). SAFE. -/
  | refusedCommand
  /-- Raised by `hostWait`: no violation; the loop of `WAIT` still goes on where the gaps given to it
  end, because every read so far had bit 0 set (R83). SAFE. -/
  | waiting
  /-- Raised by `hashOfReplies`, `digestOfReplies`, `hostWait` and `hostRun`: a read the program
  relies on was never answered. The model's own; no run of a whole program raises it. SAFE. -/
  | unanswered
  deriving DecidableEq, Repr

/-- R193: block `j` is bytes `64j` to `64j + 63`. -/
def blockAt (p : List Byte) (j : Nat) : Vector Byte 64 :=
  Vector.ofFn fun i => p.getD (64 * j + i.val) 0

/-- R193, R197: the blocks of the padded form `p` of a message of `L` bytes, in increasing order.
A length that is no multiple of 64 and a wrong number of blocks are defects of the host. -/
def splitBlocks (L : Nat) (p : List Byte) : Except HostStop (List (Vector Byte 64)) :=
  if p.length % 64 ≠ 0 then .error .paddedLength
  else if p.length / 64 ≠ blockCount L then .error .blockCount
  else .ok ((List.range (p.length / 64)).map (blockAt p))

/-- R67, R195: hash words as the bytes of the digest, each word big-endian. -/
def hashBytes (hs : List Word) : List Byte := hs.flatMap be32

/-- R195, last equation: `digest(m)` as a value, without an engine. -/
def digest (m : List Byte) : Except HostStop (List Byte) :=
  (splitBlocks m.length (pad m)).map fun bs => hashBytes (compressSeq Config.IV bs).toList

/-- R195, R196: `GETH i -> h_i` for `i = 0..7`. -/
def getHash : List Event := (List.finRange 8).flatMap geth

/-- R196: `SETH i, s_i` for `i = 0..7`. -/
def setHash (H : Vector Word 8) : List Event := (List.finRange 8).flatMap fun i => seth i H[i.val]

/-- R195, R24: a `STATUS` read shows an error flag. -/
def statusShowsError (v : Word) : Bool := v.getLsbD 2 || v.getLsbD 3 || v.getLsbD 4

/-- R195, R196: `h_0..h_7`, what the eight `GETH` returned; `replies` has the newest first. -/
def hashOfReplies (replies : List BusReply) : Except HostStop (List Word) :=
  if replies.length < 8 then .error .unanswered
  else .ok ((replies.take 8).reverse.map BusReply.value)

/-- R195: the digest from what the host's reads returned, the final `STATUS` read newest. Where that
read shows an error flag some command was refused, and there is no digest. -/
def digestOfReplies : List BusReply → Except HostStop (List Byte)
  | [] => .error .unanswered
  | s :: gets =>
    if statusShowsError s.value then .error .refusedCommand else (hashOfReplies gets).map hashBytes

end Sys2Proof.Machine
end

