-- ==== Sys2Proof/Safety.lean ====
section
/-! DEFINITION. The terms claims about the machine use: the invariants (R39, R167), what the next
step is about to do (R57, R215), runs (R57), and what may differ between two runs that look alike
from the bus (R240). -/

namespace Sys2Proof.Machine

/-- R39: the invariants of the control bits. -/
abbrev ControlInv (s : State) : Prop :=
  (s.BUSY = false → s.t = 0 ∨ s.t = 64) ∧ (s.BUSY = true → s.DONE = false)

/-- R167: while a compression of the block in `M` into `H` runs, the working variables are those
of R162 after `t` rounds, and the schedule words loaded or computed so far are `Schedule(M)`. -/
def CompressionInv (s : State) : Prop :=
  s.BUSY = true →
    s.v = varsAfter s.H (schedule s.M) s.t.val ∧
    ∀ i : Fin 64, i.val < max 16 s.t.val → s.W[i.val] = (schedule s.M)[i.val]

/-- R57, R77: the next step is the `CMD` write that performs command `i`. -/
def performs (s : State) (i : Instr) : Prop :=
  ∃ w rest, s.pending = .write (.window 0) 4 w :: rest ∧ s.BUSY = false ∧ decode w = some i

/-- R57, R163: the next step is the sequencer's, and it has one. -/
def sequencerMoves (s : State) : Prop :=
  s.BUSY = true ∧ (s.pending = [] ∨ ∃ rest, s.pending = .turn :: rest)

/-- R230: the next step is a reset. -/
def resetsNext (s : State) : Prop := ∃ rest, s.pending = .reset :: rest

/-- R53: the next step is an admitted write of `x` to the register at offset `off`. -/
def writesNext (s : State) (off : Fin 16) (x : Word) : Prop :=
  ∃ rest, s.pending = .write (.window off) 4 x :: rest

/-- R215: the one error, if any, that the next input raises, checked in the order the rule
gives. -/
def errorRaised (s : State) : Option ErrFlag :=
  match s.pending with
  | .read (.window off) size :: _ => if size ≠ 4 ∨ off.val % 4 ≠ 0 then some .ACCERR else none
  | .write (.window off) size x :: _ =>
    if size ≠ 4 ∨ off.val % 4 ≠ 0 then some .ACCERR
    else if off = 0 ∧ s.BUSY = true then some .BUSYERR
    else if off = 0 ∧ decode x = none then some .CMDERR
    else none
  | _ => none

/-- R25, R217, R230: the next input clears flag `F`: a write of 1 to its `STATUS` bit, or reset. -/
def errorCleared (s : State) (F : ErrFlag) : Bool :=
  match s.pending with
  | .write (.window 0xC) 4 x :: _ => x.getLsbD (causeCode F)
  | .reset :: _ => true
  | _ => false

/-- R24: no error flag is set. -/
abbrev NoErrors (s : State) : Prop := s.CMDERR = false ∧ s.BUSYERR = false ∧ s.ACCERR = false

/-- R57: an input that is a sequencer turn or an access of this window: neither a reset nor an
access that is not the engine's. -/
def isOrdinary : Event → Bool
  | .read p _ => p.inWindow
  | .write p _ _ => p.inWindow
  | .turn => true
  | .reset => false

/-- R239: how many sequencer turns a list of inputs holds. -/
def turns (es : List Event) : Nat := es.countP (fun e => decide (e = .turn))

/-- `n` steps of the machine, over the model's own types. -/
def runSteps (n : Nat) (s : State) : Host.Outcome State Fault Refusal := core.run n s

/-- R57: the inputs `es` performed one after another from `s`, with none left over, end in `t`. -/
def Runs (s : State) (es : List Event) (t : State) : Prop :=
  runSteps es.length { s with pending := es } = .next { t with pending := [] }

/-- R240: a command without its index or shift operand. -/
def shapeOf : Instr → Instr
  | .wrh _ => .wrh 0
  | .rdh _ => .rdh 0
  | .wrw _ => .wrw 0
  | .rdw _ => .rdw 0
  | .wrb _ => .wrb 0
  | .rotr _ => .rotr 0
  | .shr _ => .shr 0
  | .rdk _ => .rdk 0
  | .rdiv _ => .rdiv 0
  | .nop => .nop
  | .init => .init
  | .comp => .comp
  | .ch => .ch
  | .maj => .maj
  | .bsig0 => .bsig0
  | .bsig1 => .bsig1
  | .ssig0 => .ssig0
  | .ssig1 => .ssig1
  | .add => .add
  | .add3 => .add3
  | .wry => .wry
  | .wrz => .wrz

/-- R240: two inputs that differ at most in data: the value written to `DATA`, or the index or
shift operand of a command. -/
def EventsAlike (e₁ e₂ : Event) : Prop :=
  e₁ = e₂ ∨ (∃ x₁ x₂, e₁ = writeDATA x₁ ∧ e₂ = writeDATA x₂) ∨
    ∃ i₁ i₂ : Instr, shapeOf i₁ = shapeOf i₂ ∧ e₁ = issue i₁ ∧ e₂ = issue i₂

/-- R240: two states that look alike on the bus but for `DATA` and `RESULT` values: the same
`STATUS` bits, as many replies of the same sizes, and inputs that differ at most in data. -/
def ControlAlike (s₁ s₂ : State) : Prop :=
  s₁.BUSY = s₂.BUSY ∧ s₁.DONE = s₂.DONE ∧ s₁.t = s₂.t ∧ s₁.CMDERR = s₂.CMDERR ∧
    s₁.BUSYERR = s₂.BUSYERR ∧ s₁.ACCERR = s₂.ACCERR ∧
    s₁.replies.map BusReply.size = s₂.replies.map BusReply.size ∧
    List.Forall₂ EventsAlike s₁.pending s₂.pending

end Sys2Proof.Machine
end

