-- ==== Sys2Proof/Machine/HostProgram.lean ====
section
/-! DEFINITION. The host programs of R195 and R196 run on the engine: their accesses are performed,
`WAIT` loops on the `STATUS` it reads (R83), and the results come from what the reads returned. A
violation of R197 is a fault of the host (`HostStop`), never a result. No rule of the engine depends
on this file. -/

namespace Sys2Proof.Machine

/-- R58: the inputs `es` performed from `s`. The engine never stops on an access of its window
(R210), so the two last cases are not reached by the programs of R195 and R196. -/
def hostRun (es : List Event) (s : State) : Except HostStop State :=
  match runSteps es.length (s.setPending es) with
  | .next t => .ok t
  | .fault _ => .error .unanswered
  | .refused _ => .error .unanswered

/-- R197, R215: one of the next `n` steps raises an error, so an access of the host was refused. -/
def raisesWithin : Nat → State → Bool
  | 0, _ => false
  | n + 1, s =>
    (errorRaised s).isSome ||
      match step s with
      | .next t => raisesWithin n t
      | .fault _ => false
      | .refused _ => false

/-- R197: `hostRun`, with a refused access as a fault of the host at once. -/
def checkedRun (es : List Event) (s : State) : Except HostStop State :=
  if raisesWithin es.length (s.setPending es) then .error .refusedCommand else hostRun es s

/-- R83: `WAIT`, that is `L: s <- STATUS ; if s[0] = 1 goto L`: read `STATUS`, and again as long as
bit 0 of what the read returned is 1. `gaps` says how many sequencer turns fall before each read,
which R57 leaves open; the loop takes no gap beyond the read that ends it, and where the gaps end
while it still goes on it has no result yet (log entry 14). -/
def hostWait : List Nat → State → Except HostStop State
  | [], _ => .error .waiting
  | n :: gaps, s =>
    (hostRun (List.replicate n Event.turn ++ [readSTATUS]) s).bind fun t =>
      match t.replies with
      | [] => .error .unanswered
      | r :: _ => if r.value.getLsbD 0 then hostWait gaps t else .ok t

/-- R195, R196: for each block in order `LDBLK`, `COMP`, `WAIT`. `run` performs the accesses, and
each block has the gaps of its `WAIT`. -/
def runBlocks (run : List Event → State → Except HostStop State) :
    List (Vector Byte 64 × List Nat) → State → Except HostStop State
  | [], s => .ok s
  | b :: bs, s =>
    ((run (ldblk b.1 ++ [issue .comp]) s).bind (hostWait b.2)).bind (runBlocks run bs)

/-- The blocks, block `j` with the gaps of its `WAIT`. -/
def withGaps (gaps : Nat → List Nat) (bs : List (Vector Byte 64)) :
    List (Vector Byte 64 × List Nat) :=
  bs.zipIdx.map fun b => (b.1, gaps b.2)

/-- R195: `digest(m)` computed on the engine, over the blocks of the padded message. A refused
command is found by the final `STATUS` read. -/
def runDigest (m : List Byte) (gaps : Nat → List Nat) (s : State) : Except HostStop (List Byte) :=
  (splitBlocks m.length (pad m)).bind fun bs =>
    (((hostRun [issue .init] s).bind (runBlocks hostRun (withGaps gaps bs))).bind
      (hostRun (getHash ++ [readSTATUS]))).bind fun t => digestOfReplies t.replies

/-- R196, R197: `compress(H, blocks)` computed on the engine. R196 has no final `STATUS` read, so a
refused command is found where it happens (log entry 14). -/
def runCompress (H : Vector Word 8) (bs : List (Vector Byte 64 × List Nat)) (s : State) :
    Except HostStop (List Word) :=
  (((checkedRun (setHash H) s).bind (runBlocks checkedRun bs)).bind (checkedRun getHash)).bind
    fun t => hashOfReplies t.replies

end Sys2Proof.Machine
end

