-- ==== Sys2Proof/Certificates/Slice0/Obligations.lean ====
section
/-! DEFINITION. The statements for the provers. Each docstring says which rule it formalises; a
record update `{ s with … }` on the right of an equation names every field that changes, so it
states the frame as well: every field it does not name is as before. -/

open Sys2Proof Sys2Proof.Machine

/-! ### Encoding -/

/-- Every row of the table of worked encodings (R81, which the spec marks as derived). A legal
word decodes to its command and is that command's encoding; an illegal word written to `CMD` while
idle sets `CMDERR` and nothing else. -/
def Obligations.WorkedEncodings : Prop :=
  (∀ p ∈ [((0x00000000 : Word), Instr.nop), (0x10000000, .init), (0x20000007, .wrh 7),
      (0x30000003, .rdh 3), (0x4000000F, .wrw 15), (0x50000000, .rdw 0), (0x6000003F, .wrb 63),
      (0x70000000, .comp), (0x80070000, .rotr 7), (0x801F0000, .rotr 31), (0x810A0000, .shr 10),
      (0x82000000, .ch), (0x87000000, .ssig1), (0x89000000, .add3), (0x90000000, .wry),
      (0xA0000000, .wrz), (0xB000003F, .rdk 63), (0xC0000000, .rdiv 0)],
    decode p.1 = some p.2 ∧ encode p.2 = p.1) ∧
  ∀ w ∈ [(0x30000008 : Word), 0x82010000, 0x8A000000, 0xD0000000],
    ∀ s : State, s.BUSY = false → writeCMD w s = .next { s with CMDERR := true }

/-- R72 to R74, R76, R77: decoding the word of any command gives the command back, at every value
of its operand. -/
def Obligations.DecodeOfEncode : Prop := ∀ i : Instr, decode (encode i) = some i

/-- R71, R76: a word that decodes is the encoding of what it decodes to, so no bit of a legal word
is ignored and no two words mean one command. -/
def Obligations.DecodedWordIsItsEncoding : Prop :=
  ∀ (w : Word) (i : Instr), decode w = some i → encode i = w

/-- R76: the map has 22 rows and at most one row matches any word. -/
def Obligations.AtMostOneRowMatches : Prop :=
  opcodeTable.length = 22 ∧
  ∀ (w : Word) (j k : Nat) (rj rk : Row), opcodeTable[j]? = some rj → opcodeTable[k]? = some rk →
    rj.selects w = true → rk.selects w = true → j = k

/-- R78: the illegal words are those of the rule's three rows (a reserved operation class, a
reserved ALU function, a reserved bit set for the word's `OPC` and `FN`), each performs
`raise Err(CMDERR)` and nothing else, and exactly 261 words are legal. -/
def Obligations.IllegalWordsOnlySetCMDERR : Prop :=
  (∀ w : Word, decode w = none ↔
    fieldOPC w ≥ 0xD ∨ (fieldOPC w = 8 ∧ fieldFN w ≥ 0xA) ∨ w &&& reservedMask w ≠ 0) ∧
  (∀ (w : Word) (s : State), s.BUSY = false → decode w = none →
    writeCMD w s = .next { s with CMDERR := true }) ∧
  ∃ l : List Word, l.length = 261 ∧ l.Nodup ∧ ∀ w, w ∈ l ↔ ∃ i, decode w = some i

/-! ### Accesses -/

/-- R77: a 4-byte write to `CMD` of a word that decodes to `i`, while idle, performs `i` in the step
of the write; the step adds nothing but taking the write off the inputs. -/
def Obligations.StepRunsDecodedCommand : Prop :=
  ∀ (s : State) (w : Word) (i : Instr) (rest : List Event),
    s.pending = .write (.window 0x0) 4 w :: rest → s.BUSY = false → decode w = some i →
    step s = exec i { s with pending := rest }

/-- R215: the checking order of one access, size and alignment before busy before the word, and
exactly one flag raised; an access that passes is performed. -/
def Obligations.AccessCheckingOrder : Prop :=
  ∀ (s : State) (off : Fin 16) (size : Nat) (x : Word) (rest : List Event),
    (s.pending = .write (.window off) size x :: rest →
      step s =
        if size ≠ 4 ∨ off.val % 4 ≠ 0 then .next { s with pending := rest, ACCERR := true }
        else if off = 0x0 ∧ s.BUSY = true then .next { s with pending := rest, BUSYERR := true }
        else if off = 0x0 ∧ decode x = none then .next { s with pending := rest, CMDERR := true }
        else writeReg x { s with pending := rest } (regAt off)) ∧
    (s.pending = .read (.window off) size :: rest →
      step s =
        if size ≠ 4 ∨ off.val % 4 ≠ 0 then
          .next { s with pending := rest, ACCERR := true, replies := ⟨size, 0⟩ :: s.replies }
        else .next { s with pending := rest, replies := ⟨4, readReg s (regAt off)⟩ :: s.replies })

/-- R53: what each admitted access does and returns, for all four registers; a write to `CMD` is
the command the word decodes to, or an error, and no read has a side effect. -/
def Obligations.AdmittedAccessEffects : Prop :=
  ∀ (s : State) (x : Word) (rest : List Event),
    (s.pending = .read (.window 0x0) 4 :: rest →
      step s = .next { s with pending := rest, replies := ⟨4, 0⟩ :: s.replies }) ∧
    (s.pending = .write (.window 0x0) 4 x :: rest →
      (s.BUSY = true → step s = .next { s with pending := rest, BUSYERR := true }) ∧
      (s.BUSY = false → decode x = none →
        step s = .next { s with pending := rest, CMDERR := true }) ∧
      ∀ i, s.BUSY = false → decode x = some i → step s = exec i { s with pending := rest }) ∧
    (s.pending = .read (.window 0x4) 4 :: rest →
      step s = .next { s with pending := rest, replies := ⟨4, s.DATA⟩ :: s.replies }) ∧
    (s.pending = .write (.window 0x4) 4 x :: rest →
      step s = .next { s with pending := rest, DATA := x }) ∧
    (s.pending = .read (.window 0x8) 4 :: rest →
      step s = .next { s with pending := rest, replies := ⟨4, s.RESULT⟩ :: s.replies }) ∧
    (s.pending = .write (.window 0x8) 4 x :: rest → step s = .next { s with pending := rest }) ∧
    (s.pending = .read (.window 0xC) 4 :: rest →
      step s = .next { s with
        pending := rest
        replies := ⟨4, 0#17 ++ BitVec.ofNat 7 s.t.val ++ 0#3 ++ BitVec.ofBool s.ACCERR ++
          BitVec.ofBool s.BUSYERR ++ BitVec.ofBool s.CMDERR ++ BitVec.ofBool s.DONE ++
          BitVec.ofBool s.BUSY⟩ :: s.replies }) ∧
    (s.pending = .write (.window 0xC) 4 x :: rest →
      step s = .next { s with
        pending := rest
        CMDERR := s.CMDERR && !x.getLsbD 2
        BUSYERR := s.BUSYERR && !x.getLsbD 3
        ACCERR := s.ACCERR && !x.getLsbD 4 })

/-- R24: every bit of `STATUS` as the host reads it. -/
def Obligations.StatusFields : Prop :=
  ∀ s : State,
    (statusWord s).getLsbD 0 = s.BUSY ∧ (statusWord s).getLsbD 1 = s.DONE ∧
    (statusWord s).getLsbD 2 = s.CMDERR ∧ (statusWord s).getLsbD 3 = s.BUSYERR ∧
    (statusWord s).getLsbD 4 = s.ACCERR ∧ (statusWord s).extractLsb' 5 3 = 0 ∧
    ((statusWord s).extractLsb' 8 7).toNat = s.t.val ∧ (statusWord s).extractLsb' 15 17 = 0

/-- R25: a host write of `x` to `STATUS`, busy or not, clears exactly the error flags whose bit is
1 in `x` and changes no other state, whatever the other bits of `x` are. -/
def Obligations.StatusWriteClearsOnes : Prop :=
  ∀ (s : State) (x : Word) (rest : List Event), s.pending = .write (.window 0xC) 4 x :: rest →
    step s = .next { s with
      pending := rest
      CMDERR := s.CMDERR && !x.getLsbD 2
      BUSYERR := s.BUSYERR && !x.getLsbD 3
      ACCERR := s.ACCERR && !x.getLsbD 4 }

/-- R213: `ACCERR` is `STATUS` bit 4; any access in the window whose size is not 4 or whose offset
is not a multiple of 4, read or write, to any register, busy or not, sets `ACCERR`; a write so
raised changes no register and a read so raised returns 0. -/
def Obligations.WrongAccessOnlySetsACCERR : Prop :=
  (∀ s : State, (statusWord s).getLsbD 4 = s.ACCERR) ∧
  ∀ (s : State) (off : Fin 16) (size : Nat) (x : Word) (rest : List Event),
    (size ≠ 4 ∨ off.val % 4 ≠ 0) →
    (s.pending = .write (.window off) size x :: rest →
      step s = .next { s with pending := rest, ACCERR := true }) ∧
    (s.pending = .read (.window off) size :: rest →
      step s = .next
        { s with pending := rest, ACCERR := true, replies := ⟨size, 0⟩ :: s.replies })

/-- R212: `BUSYERR` is `STATUS` bit 3; while busy, a 4-byte aligned write of any word to `CMD`, legal
or illegal, sets `BUSYERR` and nothing else (the compression is unaffected, the word is not
decoded); a write to `DATA` or `STATUS` and every admitted read raises no error. That `exec` of a
command answers `BUSYERR` while busy as well is the model's reading of R110, R140 and R164 (log
entry 8, DEDUCED). -/
def Obligations.BusyRefusesEveryCommand : Prop :=
  (∀ s : State, (statusWord s).getLsbD 3 = s.BUSYERR) ∧
  ∀ s : State, s.BUSY = true →
    (∀ i : Instr, exec i s = .next { s with BUSYERR := true }) ∧
    (∀ (w : Word) (rest : List Event), s.pending = .write (.window 0x0) 4 w :: rest →
      step s = .next { s with pending := rest, BUSYERR := true }) ∧
    (∀ (x : Word) (rest : List Event) (off : Fin 16),
      (s.pending = .write (.window 0x4) 4 x :: rest ∨ s.pending = .write (.window 0xC) 4 x :: rest ∨
        (s.pending = .read (.window off) 4 :: rest ∧ off.val % 4 = 0)) →
      ∃ t, step s = .next t ∧ ∀ F : ErrFlag, t.flag F = true → s.flag F = true)

/-- R214: raising an error sets its flag and leaves every other piece of state, the other two flags
among them, as it was. -/
def Obligations.RaiseErrOnlySetsItsFlag : Prop :=
  ∀ (s : State) (F : ErrFlag), (s.raiseErr F).flag F = true ∧
    (∀ G : ErrFlag, G ≠ F → (s.raiseErr F).flag G = s.flag G) ∧
    (s.raiseErr F).H = s.H ∧ (s.raiseErr F).M = s.M ∧ (s.raiseErr F).W = s.W ∧
    (s.raiseErr F).v = s.v ∧ (s.raiseErr F).t = s.t ∧ (s.raiseErr F).BUSY = s.BUSY ∧
    (s.raiseErr F).DONE = s.DONE ∧ (s.raiseErr F).DATA = s.DATA ∧
    (s.raiseErr F).RESULT = s.RESULT ∧ (s.raiseErr F).OPY = s.OPY ∧ (s.raiseErr F).OPZ = s.OPZ ∧
    (s.raiseErr F).pending = s.pending ∧ (s.raiseErr F).replies = s.replies

/-- R34, R217: over every step, an error flag is 1 afterwards exactly if the step's input raised it
(R211 to R213, in the order of R215) or it was 1 and the input did not clear it (a write of 1 to
its `STATUS` bit, or reset). -/
def Obligations.ErrorFlagLifeCycle : Prop :=
  ∀ (s t : State) (F : ErrFlag), step s = .next t →
    (t.flag F = true ↔
      errorRaised s = some F ∨ (s.flag F = true ∧ errorCleared s F = false))

/-- R50, R210 and log entry 6 (the model's choice): a step never refuses, and it faults exactly
where the next input is a host access that starts outside the window. -/
def Obligations.StepStopsOnlyOutsideWindow : Prop :=
  ∀ s : State, (∀ r, step s ≠ .refused r) ∧
    ∀ f, step s = .fault f ↔
      ∃ (addr : Nat) (rest : List Event), f = .outsideWindow addr ∧
        ((∃ size, s.pending = .read (.elsewhere addr) size :: rest) ∨
          ∃ size x, s.pending = .write (.elsewhere addr) size x :: rest)

/-- R8, R12, R50, with the parameters as log entry 2 models them: `BASE` is a multiple of 16; the
host addresses `BASE` to `BASE + 0xF` reach the window at their offset and no other address does;
a step takes at least one cycle. -/
def Obligations.WindowAddresses : Prop :=
  Config.BASE % 16 = 0 ∧ 1 ≤ Config.CYC_PER_STEP ∧
  (∀ (off : Fin 16) (n : Nat) (v : Word),
    memWrite (Config.BASE + off.val) n v = .write (.window off) n v ∧
    memRead (Config.BASE + off.val) n = .read (.window off) n) ∧
  ∀ (addr n : Nat) (v : Word), (addr < Config.BASE ∨ Config.BASE + 16 ≤ addr) →
    memWrite addr n v = .write (.elsewhere addr) n v ∧ memRead addr n = .read (.elsewhere addr) n

/-- R68, with the lanes as log entry 2 models them: whichever lanes carry which bytes, a register
value put on the bus and taken off it is the same value. -/
def Obligations.BusLanesCarryTheValue : Prop :=
  ∀ v : Word, fromLanes (toLanes v) = v

/-- R54: two admitted reads of one register, with no input between them, return the same value and
change no state of the engine. -/
def Obligations.ReadsAreIdempotent : Prop :=
  ∀ (s : State) (off : Fin 16), off.val % 4 = 0 →
    ∃ r : Word, Runs s [.read (.window off) 4, .read (.window off) 4]
      { s with replies := ⟨4, r⟩ :: ⟨4, r⟩ :: s.replies }

/-- R55 (which the spec marks as derived): a second equal write to `DATA` or to `STATUS` has no
further effect. -/
def Obligations.DataAndStatusWritesAreIdempotent : Prop :=
  ∀ (s t : State) (x : Word) (e : Event), e = writeDATA x ∨ e = writeSTATUS x →
    Runs s [e] t → Runs s [e, e] t

/-! ### ALU -/

/-- R100 with the result of `ROTR n` (R111): while idle, `RESULT` becomes `rotr(DATA, n)` and
nothing else changes; `rotr(x, n) = (x >> n) ∨ (x << (32 − n))` for `1 ≤ n ≤ 31`, `rotr(x, 0) = x`,
and bit `i` of the result is bit `(i + n) mod 32` of `x`. -/
def Obligations.RotrRotatesRight : Prop :=
  (∀ (n : Fin 32) (s : State), s.BUSY = false →
    exec (.rotr n) s = .next { s with RESULT := rotr s.DATA n.val }) ∧
  ∀ x : Word, rotr x 0 = x ∧
    (∀ n, 1 ≤ n → n ≤ 31 → rotr x n = (x >>> n) ||| (x <<< (32 - n))) ∧
    ∀ n i, n < 32 → i < 32 → (rotr x n).getLsbD i = x.getLsbD ((i + n) % 32)

/-- R101 with the result of `SHR n` (R112): while idle, `RESULT` becomes `floor(DATA / 2^n)` and
nothing else changes; bit `i` of the result is bit `i + n` of `x` for `i + n ≤ 31` and 0
otherwise. -/
def Obligations.ShrShiftsInZeros : Prop :=
  (∀ (n : Fin 32) (s : State), s.BUSY = false →
    exec (.shr n) s = .next { s with RESULT := shr s.DATA n.val }) ∧
  ∀ x : Word, shr x 0 = x ∧
    ∀ n, n < 32 → (shr x n).toNat = x.toNat / 2 ^ n ∧
      ∀ i, i < 32 → (shr x n).getLsbD i = if i + n ≤ 31 then x.getLsbD (i + n) else false

/-- R102, R103 with the results of `CH` and `MAJ` (R113, R114): while idle, `RESULT` becomes `ch` or
`maj` of `DATA`, `OPY`, `OPZ` and nothing else changes; `ch` selects bit by bit, `maj` is the
majority of the three bits. -/
def Obligations.ChooseAndMajority : Prop :=
  (∀ s : State, s.BUSY = false →
    exec .ch s = .next { s with RESULT := ch s.DATA s.OPY s.OPZ } ∧
    exec .maj s = .next { s with RESULT := maj s.DATA s.OPY s.OPZ }) ∧
  ∀ x y z : Word, ch x y z = (x &&& y) ^^^ (~~~x &&& z) ∧
    maj x y z = (x &&& y) ^^^ (x &&& z) ^^^ (y &&& z) ∧
    ∀ i, i < 32 →
      (ch x y z).getLsbD i = (if x.getLsbD i then y.getLsbD i else z.getLsbD i) ∧
      (maj x y z).getLsbD i =
        decide (2 ≤ (x.getLsbD i).toNat + (y.getLsbD i).toNat + (z.getLsbD i).toNat)

/-- R104 to R107 with the results of the four sigma commands (R115 to R118): while idle, `RESULT`
becomes the function of `DATA` with the rule's rotate and shift amounts, and nothing else
changes. -/
def Obligations.SigmaCommands : Prop :=
  (∀ x : Word,
    bigSigma0 x = rotr x 2 ^^^ rotr x 13 ^^^ rotr x 22 ∧
    bigSigma1 x = rotr x 6 ^^^ rotr x 11 ^^^ rotr x 25 ∧
    smallSigma0 x = rotr x 7 ^^^ rotr x 18 ^^^ shr x 3 ∧
    smallSigma1 x = rotr x 17 ^^^ rotr x 19 ^^^ shr x 10) ∧
  ∀ s : State, s.BUSY = false →
    exec .bsig0 s = .next { s with RESULT := bigSigma0 s.DATA } ∧
    exec .bsig1 s = .next { s with RESULT := bigSigma1 s.DATA } ∧
    exec .ssig0 s = .next { s with RESULT := smallSigma0 s.DATA } ∧
    exec .ssig1 s = .next { s with RESULT := smallSigma1 s.DATA }

/-- R108, R119, R120: while idle, `ADD` and `ADD3` write the integer sum of their operands reduced
modulo 2^32 and change nothing else, and so sum the 4- and 5-operand adders of the datapath. -/
def Obligations.AddersSumModuloWord : Prop :=
  (∀ s : State, s.BUSY = false →
    exec .add s =
      .next { s with RESULT := BitVec.ofNat 32 ((s.DATA.toNat + s.OPY.toNat) % 2 ^ 32) } ∧
    exec .add3 s = .next { s with
      RESULT := BitVec.ofNat 32 ((s.DATA.toNat + s.OPY.toNat + s.OPZ.toNat) % 2 ^ 32) }) ∧
  ∀ x y z u w : Word,
    (add4 x y z u).toNat = (x.toNat + y.toNat + z.toNat + u.toNat) % 2 ^ 32 ∧
    (add5 x y z u w).toNat = (x.toNat + y.toNat + z.toNat + u.toNat + w.toNat) % 2 ^ 32

/-- R110: each of the ten ALU commands answers, while idle, a next state in which only `RESULT` can
differ, and its new value depends on no more than `DATA`, `OPY`, `OPZ` (and the command). -/
def Obligations.AluDependsOnOperandsOnly : Prop :=
  ∀ (n : Fin 32) (i : Instr),
    i ∈ [Instr.rotr n, .shr n, .ch, .maj, .bsig0, .bsig1, .ssig0, .ssig1, .add, .add3] →
    ∃ F : Word → Word → Word → Word, ∀ s : State, s.BUSY = false →
      exec i s = .next { s with RESULT := F s.DATA s.OPY s.OPZ }

/-- R121 (which the spec marks as derived): the laws of the pure functions. -/
def Obligations.WordFunctionLaws : Prop :=
  (∀ (x : Word) (m n : Nat), m < 32 → n < 32 → rotr (rotr x m) n = rotr x ((m + n) % 32)) ∧
  (∀ n, n < 32 → Function.Bijective fun x : Word => rotr x n) ∧
  (∀ (x : Word) (n : Nat), n < 32 → (shr x n).toNat ≤ x.toNat) ∧
  (∀ x y z : Word, ch x y z = (x &&& y) ||| (~~~x &&& z)) ∧
  (∀ x y z : Word, maj x y z = (x &&& y) ||| (x &&& z) ||| (y &&& z) ∧
    maj x y z = ch (x ^^^ y) z y) ∧
  (∀ F ∈ [bigSigma0, bigSigma1, smallSigma0, smallSigma1],
    F 0 = 0 ∧ ∀ x y : Word, F (x ^^^ y) = F x ^^^ F y) ∧
  (∀ x y z : Word, add2 (add2 x y) z = add2 x (add2 y z) ∧ add2 x y = add2 y x ∧ add2 x 0 = x) ∧
  ∀ x : Word, x ≠ 0 → add2 x (BitVec.ofNat 32 (2 ^ 32 - x.toNat)) = 0

/-! ### ROM -/

/-- R134, R135: while idle, `RDK i` and `RDIV i` write `K[i]` or `IV[i]` to `RESULT`, whatever `H`
holds, and change nothing else. -/
def Obligations.RomReads : Prop :=
  ∀ s : State, s.BUSY = false →
    (∀ i : Fin 64, exec (.rdk i) s = .next { s with RESULT := Config.K[i.val] }) ∧
    ∀ i : Fin 8, exec (.rdiv i) s = .next { s with RESULT := Config.IV[i.val] }

/-- R133 (which the spec marks as general knowledge; log entry 1): `K[i]` is the first 32 bits of
the fractional part of the cube root of the `(i+1)`-th prime, and `IV[i]` those of its square
root. The integer `r` is the root times 2^32, rounded down. -/
def Obligations.RomHoldsPrimeRoots : Prop :=
  ∃ primes : List Nat, primes.length = 64 ∧ primes.Pairwise (· < ·) ∧
    (∀ p, p ∈ primes ↔ p.Prime ∧ p ≤ 311) ∧
    (∀ i : Fin 64, ∃ p r : Nat, primes[i.val]? = some p ∧
      r ^ 3 ≤ p * 2 ^ 96 ∧ p * 2 ^ 96 < (r + 1) ^ 3 ∧ Config.K[i.val].toNat = r % 2 ^ 32) ∧
    ∀ i : Fin 8, ∃ p r : Nat, primes[i.val]? = some p ∧
      r ^ 2 ≤ p * 2 ^ 64 ∧ p * 2 ^ 64 < (r + 1) ^ 2 ∧ Config.IV[i.val].toNat = r % 2 ^ 32

/-! ### Transfer -/

/-- R141 to R144, R148, R149: what `NOP`, `INIT`, `WRH`, `RDH`, `WRY` and `WRZ` do while idle, and
that they change nothing else; `WRH i` leaves the other seven words of `H`. -/
def Obligations.RegisterTransfers : Prop :=
  ∀ s : State, s.BUSY = false →
    exec .nop s = .next s ∧
    exec .init s = .next { s with H := Config.IV, DONE := false } ∧
    (∀ i : Fin 8, ∃ H : Vector Word 8,
      exec (.wrh i) s = .next { s with H := H, DONE := false } ∧ H[i.val] = s.DATA ∧
      ∀ k : Fin 8, k ≠ i → H[k.val] = s.H[k.val]) ∧
    (∀ i : Fin 8, exec (.rdh i) s = .next { s with RESULT := s.H[i.val] }) ∧
    exec .wry s = .next { s with OPY := s.DATA } ∧
    exec .wrz s = .next { s with OPZ := s.DATA }

/-- R145, R65: while idle, `WRW i` stores `DATA` big-endian into bytes `4i` to `4i+3` of `M`,
leaves every other byte and changes nothing else. -/
def Obligations.WrwStoresBigEndian : Prop :=
  ∀ (s : State) (i : Fin 16), s.BUSY = false →
    ∃ M : Vector Byte 64, exec (.wrw i) s = .next { s with M := M } ∧
      M[4 * i.val]'(by omega) = s.DATA.extractLsb' 24 8 ∧
      M[4 * i.val + 1]'(by omega) = s.DATA.extractLsb' 16 8 ∧
      M[4 * i.val + 2]'(by omega) = s.DATA.extractLsb' 8 8 ∧
      M[4 * i.val + 3]'(by omega) = s.DATA.extractLsb' 0 8 ∧
      ∀ k : Fin 64, k.val / 4 ≠ i.val → M[k.val] = s.M[k.val]

/-- R147: while idle, `WRB j` stores `DATA[7:0]` as byte `j` of `M`, whatever `DATA[31:8]` is,
leaves every other byte and changes nothing else. -/
def Obligations.WrbStoresOneByte : Prop :=
  ∀ (s : State) (j : Fin 64), s.BUSY = false →
    ∃ M : Vector Byte 64, exec (.wrb j) s = .next { s with M := M } ∧
      M[j.val] = s.DATA.extractLsb' 0 8 ∧ ∀ k : Fin 64, k ≠ j → M[k.val] = s.M[k.val]

/-- R146, R64: while idle, `RDW i` writes bytes `4i` to `4i+3` of `M` to `RESULT`, byte `4i` in bits
31..24, and changes nothing else. -/
def Obligations.RdwReadsBigEndian : Prop :=
  ∀ (s : State) (i : Fin 16), s.BUSY = false →
    ∃ r : Word, exec (.rdw i) s = .next { s with RESULT := r } ∧
      r.toNat = (s.M[4 * i.val]'(by omega)).toNat * 2 ^ 24 +
        (s.M[4 * i.val + 1]'(by omega)).toNat * 2 ^ 16 +
        (s.M[4 * i.val + 2]'(by omega)).toNat * 2 ^ 8 + (s.M[4 * i.val + 3]'(by omega)).toNat

/-- R65, R66, R146: the words `LDW i, v` leaves are read back by `RDW i`, and `LDB j, b` then
replaces exactly the byte of the word it lands in (bits `31 − 8·(j mod 4)` down to
`24 − 8·(j mod 4)` of word `j div 4`, R147). -/
def Obligations.BlockBufferReadBack : Prop :=
  ∀ (s : State) (i : Fin 16) (v x : Word) (k : Fin 4), s.BUSY = false →
    (∃ t, Runs s (ldw i v ++ [issue (.rdw i)]) t ∧ t.RESULT = v ∧ t.DATA = v) ∧
    ∃ t, Runs s (ldw i v ++ ldb ⟨4 * i.val + k.val, by omega⟩ x ++ [issue (.rdw i)]) t ∧
      t.DATA = x ∧
      ∀ b, b < 32 → t.RESULT.getLsbD b =
        if 24 - 8 * k.val ≤ b ∧ b ≤ 31 - 8 * k.val then x.getLsbD (b - (24 - 8 * k.val))
        else v.getLsbD b

/-! ### Compression -/

/-- R160: words 0 to 15 of the schedule are the big-endian words of the block and each later word
is the rule's sum of earlier ones. -/
def Obligations.ScheduleRecurrence : Prop :=
  ∀ B : Vector Byte 64,
    (∀ i : Fin 16, (schedule B)[i.val] =
      (B[4 * i.val]'(by omega) ++ B[4 * i.val + 1]'(by omega) ++ B[4 * i.val + 2]'(by omega) ++
        B[4 * i.val + 3]'(by omega) : Word)) ∧
    ∀ t : Fin 64, 16 ≤ t.val → (schedule B)[t.val] =
      smallSigma1 ((schedule B)[t.val - 2]'(by omega)) + (schedule B)[t.val - 7]'(by omega) +
        smallSigma0 ((schedule B)[t.val - 15]'(by omega)) + (schedule B)[t.val - 16]'(by omega)

/-- R161, R162: the round function, the working variables round by round, and the elementwise sum
that ends a compression. -/
def Obligations.CompressionFunction : Prop :=
  (∀ (t : Fin 64) (v : WorkVars) (wt T1 T2 : Word),
    T1 = v.h + bigSigma1 v.e + ch v.e v.f v.g + Config.K[t.val] + wt →
    T2 = bigSigma0 v.a + maj v.a v.b v.c →
    compressionRound t v wt = ⟨T1 + T2, v.a, v.b, v.c, v.d + T1, v.e, v.f, v.g⟩) ∧
  ∀ (H : Vector Word 8) (B : Vector Byte 64),
    varsAfter H (schedule B) 0 = ⟨H[0], H[1], H[2], H[3], H[4], H[5], H[6], H[7]⟩ ∧
    (∀ t : Fin 64, varsAfter H (schedule B) (t.val + 1) =
      compressionRound t (varsAfter H (schedule B) t.val) (schedule B)[t.val]) ∧
    ∀ v, v = varsAfter H (schedule B) 64 →
      compress1 H B = #v[H[0] + v.a, H[1] + v.b, H[2] + v.c, H[3] + v.d, H[4] + v.e, H[5] + v.f,
        H[6] + v.g, H[7] + v.h]

/-- R164: while idle, `COMP` loads the schedule's first 16 words and the working variables, sets
`t` to 0 and `BUSY`, clears `DONE`, and changes nothing else (`W[16..63]` keep). -/
def Obligations.CompAcceptance : Prop :=
  ∀ s : State, s.BUSY = false →
    ∃ W : Vector Word 64,
      exec .comp s = .next { s with
        W := W
        v := ⟨s.H[0], s.H[1], s.H[2], s.H[3], s.H[4], s.H[5], s.H[6], s.H[7]⟩
        t := 0
        BUSY := true
        DONE := false } ∧
      (∀ i : Fin 16, W[i.val] =
        (s.M[4 * i.val]'(by omega) ++ s.M[4 * i.val + 1]'(by omega) ++
          s.M[4 * i.val + 2]'(by omega) ++ s.M[4 * i.val + 3]'(by omega) : Word)) ∧
      ∀ i : Fin 64, 16 ≤ i.val → W[i.val] = s.W[i.val]

/-- R163, R165, R166: on the sequencer's turn the step is the round step while `BUSY = 1` and
`t ≤ 63`, the update step at `t = 64`, and none while `BUSY = 0`; what the two steps write is as
the rules say, and they change nothing else. -/
def Obligations.SequencerSteps : Prop :=
  ∀ (s : State) (rest : List Event), s.pending = .turn :: rest →
    (s.BUSY = false → step s = .next { s with pending := rest }) ∧
    (∀ (t : Fin 64) (wt : Word), s.BUSY = true → s.t.val = t.val →
      wt = (if t.val < 16 then s.W[t.val] else
        smallSigma1 (s.W[t.val - 2]'(by omega)) + s.W[t.val - 7]'(by omega) +
          smallSigma0 (s.W[t.val - 15]'(by omega)) + s.W[t.val - 16]'(by omega)) →
      ∃ W : Vector Word 64,
        step s = .next { s with
          pending := rest
          W := W
          v := compressionRound t s.v wt
          t := t.succ } ∧
        W[t.val] = wt ∧ ∀ k : Fin 64, k ≠ t → W[k.val] = s.W[k.val]) ∧
    (s.BUSY = true → s.t.val = 64 →
      step s = .next { s with
        pending := rest
        H := #v[s.H[0] + s.v.a, s.H[1] + s.v.b, s.H[2] + s.v.c, s.H[3] + s.v.d, s.H[4] + s.v.e,
          s.H[5] + s.v.f, s.H[6] + s.v.g, s.H[7] + s.v.h]
        BUSY := false
        DONE := true })

/-- R39 (which the spec marks as derived): every step keeps the invariants of the control bits:
`t` is 0 or 64 while idle, and `DONE` is 0 while busy. -/
def Obligations.StepKeepsControlInvariant : Prop :=
  ∀ s t : State, ControlInv s → step s = .next t → ControlInv t

/-- R167 (which the spec marks as derived): every step keeps the compression invariant: while
busy, the working variables are those of R162 after `t` rounds on the block in `M` from the state
in `H`, and the schedule words so far are those of R160. -/
def Obligations.StepKeepsCompressionInvariant : Prop :=
  ∀ s t : State, CompressionInv s → step s = .next t → CompressionInv t

/-- R38, with R39 and R167 (which the spec marks as derived): both invariants hold at reset. -/
def Obligations.ResetMeetsInvariants : Prop :=
  ControlInv State.reset ∧ CompressionInv State.reset

/-- R167, R239 (which the spec marks as derived): after an accepted `COMP`, whatever accesses of
the window the host makes and wherever the sequencer's turns fall between them, the 65th turn ends
the compression: `H` is then `Compress1` of the `H` and `M` the `COMP` found, `DONE` is set and
`M` is unchanged. -/
def Obligations.CompressionIndependentOfInterleaving : Prop :=
  ∀ (s : State) (es : List Event), s.BUSY = false → (∀ e ∈ es, isOrdinary e = true) →
    turns es = 64 →
    ∃ t, Runs s (issue .comp :: es ++ [.turn]) t ∧
      t.H = compress1 s.H s.M ∧ t.M = s.M ∧ t.W = schedule s.M ∧
      t.v = varsAfter s.H (schedule s.M) 64 ∧ t.t = 64 ∧ t.BUSY = false ∧ t.DONE = true

/-- R167, R239 (which the spec marks as derived) and R234: until its 65th turn an accepted
compression stays busy, counts its rounds in `t`, and leaves `H`, `M`, `RESULT`, `OPY` and `OPZ`
as the `COMP` found them, whatever accesses of the window the host makes. -/
def Obligations.BusyUntilSixtyFifthTurn : Prop :=
  ∀ (s : State) (es : List Event), s.BUSY = false → (∀ e ∈ es, isOrdinary e = true) →
    turns es ≤ 64 →
    ∃ t, Runs s (issue .comp :: es) t ∧ t.BUSY = true ∧ t.DONE = false ∧ t.t.val = turns es ∧
      t.H = s.H ∧ t.M = s.M ∧ t.RESULT = s.RESULT ∧ t.OPY = s.OPY ∧ t.OPZ = s.OPZ

/-- R168, R169, R196 (which the spec marks as derived): from an idle engine, loading each block, writing
`COMP` and waiting, for the blocks in order, leaves `CompressSeq` of the `H` it started from; with no
block `H` is unchanged. The whole program of R196, which sets the initial state before and reads `H`
after, answers `CompressSeq` of that initial state. That a `WAIT` is given the number of turns before
each of its reads, here at least 65 in all, is the model's choice (log entry 14). -/
def Obligations.BlocksCompressInOrder : Prop :=
  ∀ (s : State) (bs : List (Vector Byte 64 × List Nat)), s.BUSY = false →
    (∀ b ∈ bs, 65 ≤ b.2.sum) →
    (∀ run, run = hostRun ∨ run = checkedRun →
      ∃ t, runBlocks run bs s = .ok t ∧ t.H = compressSeq s.H (bs.map (·.1)) ∧ t.BUSY = false ∧
        t.CMDERR = s.CMDERR ∧ t.BUSYERR = s.BUSYERR ∧ t.ACCERR = s.ACCERR) ∧
    ∀ H : Vector Word 8, runCompress H bs s = .ok (compressSeq H (bs.map (·.1))).toList

/-- R242 as the model has it (log entry 4): with no host input left, the sequencer alone ends a
compression in `65 − t` steps. -/
def Obligations.SequencerFinishesAlone : Prop :=
  ∀ s : State, s.pending = [] → s.BUSY = true →
    ∃ t : State, runSteps (65 - s.t.val) s = .next t ∧ t.BUSY = false ∧ t.DONE = true

/-- R239 (which the spec marks as derived), R241: after a performed command other than `COMP` a
sequencer turn changes nothing, and after `COMP` exactly the first 65 turns change the state, each
of them; the table of step and cycle counts says so. That a turn without a step changes nothing
and that cycles are counts beside the state are the model's choices (log entries 4 and 11). -/
def Obligations.StepCounts : Prop :=
  ∀ (s t : State) (i : Instr), s.BUSY = false → exec i s = .next t →
    sequencerSteps i = (if i = .comp then 65 else 0) ∧
    cyclesAfterAcceptance i = sequencerSteps i * Config.CYC_PER_STEP ∧
    ∀ n, ∃ u u', Runs t (List.replicate n .turn) u ∧ Runs u [.turn] u' ∧ u.pending = [] ∧
      u'.pending = [] ∧ (u' = u ↔ sequencerSteps i ≤ n)

/-! ### Whole-machine rules: what can change each register -/

/-- R26: `H` changes only by `INIT`, `WRH`, the update step or reset. -/
def Obligations.HashStateChangers : Prop :=
  ∀ s t : State, step s = .next t → t.H ≠ s.H →
    performs s .init ∨ (∃ i, performs s (.wrh i)) ∨ (sequencerMoves s ∧ s.t.val = 64) ∨
      resetsNext s

/-- R30: `M` changes only by `WRW`, `WRB` or reset; a compression does not modify it. -/
def Obligations.BlockBufferChangers : Prop :=
  ∀ s t : State, step s = .next t → t.M ≠ s.M →
    (∃ i, performs s (.wrw i)) ∨ (∃ j, performs s (.wrb j)) ∨ resetsNext s

/-- R23: `RESULT` changes only by `RDH`, `RDW`, `RDK`, `RDIV`, the ten ALU commands or reset. -/
def Obligations.ResultChangers : Prop :=
  ∀ s t : State, step s = .next t → t.RESULT ≠ s.RESULT →
    (∃ i, performs s (.rdh i)) ∨ (∃ i, performs s (.rdw i)) ∨ (∃ i, performs s (.rdk i)) ∨
      (∃ i, performs s (.rdiv i)) ∨ (∃ n, performs s (.rotr n)) ∨ (∃ n, performs s (.shr n)) ∨
      (∃ i ∈ [Instr.ch, .maj, .bsig0, .bsig1, .ssig0, .ssig1, .add, .add3], performs s i) ∨
      resetsNext s

/-- R22, R31: `DATA` changes only by a host write to it, `OPY` only by `WRY`, `OPZ` only by `WRZ`,
and each by reset. -/
def Obligations.OperandRegisterChangers : Prop :=
  ∀ s t : State, step s = .next t →
    (t.DATA ≠ s.DATA → (∃ x, writesNext s 0x4 x ∧ t.DATA = x) ∨ resetsNext s) ∧
    (t.OPY ≠ s.OPY → performs s .wry ∨ resetsNext s) ∧
    (t.OPZ ≠ s.OPZ → performs s .wrz ∨ resetsNext s)

/-- R27, R28, R29: the round counter, the working variables and the schedule change only by an
accepted `COMP`, a round step or reset. -/
def Obligations.SequencerStateChangers : Prop :=
  ∀ s t : State, step s = .next t → (t.t ≠ s.t ∨ t.v ≠ s.v ∨ t.W ≠ s.W) →
    performs s .comp ∨ (sequencerMoves s ∧ s.t.val < 64) ∨ resetsNext s

/-- R33, R32: `DONE` is `STATUS` bit 1; after a step it is 1 exactly if the step was the update
step, or it was 1 and the step was no accepted `COMP`, `INIT` or `WRH` and no reset. `BUSY` is 1
exactly if the step accepted a `COMP`, or it was 1 and the step was neither the update step nor a
reset. -/
def Obligations.BusyAndDoneLifeCycle : Prop :=
  ∀ s t : State, step s = .next t →
    (statusWord s).getLsbD 0 = s.BUSY ∧ (statusWord s).getLsbD 1 = s.DONE ∧
    (t.BUSY = true ↔
      performs s .comp ∨
        (s.BUSY = true ∧ ¬(sequencerMoves s ∧ s.t.val = 64) ∧ ¬resetsNext s)) ∧
    (t.DONE = true ↔
      (sequencerMoves s ∧ s.t.val = 64) ∨
        (s.DONE = true ∧ ¬performs s .comp ∧ ¬performs s .init ∧ (∀ i, ¬performs s (.wrh i)) ∧
          ¬resetsNext s))

/-- R240: two runs that differ only in data (the values in and written to `DATA`, the contents of
`OPY`, `OPZ`, `H`, `M`, `W` and `a..h`, the index or shift operands of commands) stay alike on the
bus, step by step: the same outcome, busy and done bits, round counter and error flags, and as many
replies. -/
def Obligations.ControlIndependentOfData : Prop :=
  ∀ s₁ s₂ : State, ControlAlike s₁ s₂ →
    (∀ t₁, step s₁ = .next t₁ → ∃ t₂, step s₂ = .next t₂ ∧ ControlAlike t₁ t₂) ∧
    ∀ f, step s₁ = .fault f → step s₂ = .fault f

/-! ### Reset -/

/-- R38: the value every piece of state holds after reset, `STATUS` as read among them. -/
def Obligations.ResetValues : Prop :=
  State.reset.H = #v[0x6a09e667, 0xbb67ae85, 0x3c6ef372, 0xa54ff53a, 0x510e527f, 0x9b05688c,
    0x1f83d9ab, 0x5be0cd19] ∧
  State.reset.H = Config.IV ∧ (∀ j : Fin 64, State.reset.M[j.val] = 0) ∧
  (∀ i : Fin 64, State.reset.W[i.val] = 0) ∧ State.reset.v = ⟨0, 0, 0, 0, 0, 0, 0, 0⟩ ∧
  State.reset.t = 0 ∧ State.reset.DATA = 0 ∧ State.reset.RESULT = 0 ∧ State.reset.OPY = 0 ∧
  State.reset.OPZ = 0 ∧ State.reset.BUSY = false ∧ State.reset.DONE = false ∧
  State.reset.CMDERR = false ∧ State.reset.BUSYERR = false ∧ State.reset.ACCERR = false ∧
  statusWord State.reset = 0

/-- R230, R231: a reset, busy or not, gives every piece of the engine's state its reset value in one
step, so the engine is idle, `H` is `IV`, no flag is set, and no remaining round or update step of
an abandoned compression happens at a later turn. That a reset keeps the remaining inputs and what
the host has read, which are not the engine's, is the model's choice (log entries 4 and 5). -/
def Obligations.ResetAbandonsEverything : Prop :=
  ∀ (s : State) (rest : List Event), s.pending = .reset :: rest →
    step s = .next { State.reset with pending := rest, replies := s.replies } ∧
    State.reset.H = Config.IV ∧ State.reset.BUSY = false ∧ State.reset.DONE = false ∧
    NoErrors State.reset ∧
    ∀ rest', rest = .turn :: rest' →
      step { State.reset with pending := rest, replies := s.replies } =
        .next { State.reset with pending := rest', replies := s.replies }

/-! ### Host procedures -/

/-- R192 (which the spec marks as derived): the length of a padded message, its last 8 bytes and
its number of blocks. -/
def Obligations.PaddingProperties : Prop :=
  ∀ m : List Byte,
    (pad m).length % 64 = 0 ∧ m.length + 9 ≤ (pad m).length ∧ (pad m).length ≤ m.length + 72 ∧
    (pad m).drop ((pad m).length - 8) = be64 (8 * m.length) ∧
    (∃ bs, splitBlocks m.length (pad m) = .ok bs ∧ bs.length = (m.length + 8) / 64 + 1) ∧
    (m.length ≤ 55 → (pad m).length = 64) ∧
    (56 ≤ m.length → m.length ≤ 119 → (pad m).length = 128)

/-- R83: the pseudo-instructions on an idle engine. `SETH` then `GETH` returns the word set; `SETY`
and `SETZ` change only `DATA` and their operand register; `LDBLK` leaves the block in `M`, its last
word in `DATA`, and all else as it was; `GETW` returns the block word; `ALU3`, for every one of the ten ALU
commands, returns that command's function of `x`, `y`, `z`; `CLRERR` clears the three error flags
and nothing else. -/
def Obligations.PseudoInstructions : Prop :=
  ∀ (s : State) (x y z : Word), s.BUSY = false →
    (∀ i : Fin 8, ∃ t, Runs s (seth i x ++ geth i) t ∧ t.H[i.val] = x ∧
      t.replies = ⟨4, x⟩ :: s.replies) ∧
    Runs s (sety y) { s with DATA := y, OPY := y } ∧
    Runs s (setz z) { s with DATA := z, OPZ := z } ∧
    (∀ B : Vector Byte 64, Runs s (ldblk B)
      { s with M := B, DATA := (B[60] ++ B[61] ++ B[62] ++ B[63] : Word) }) ∧
    (∀ k : Fin 16, ∃ r : Word,
      r = (s.M[4 * k.val]'(by omega) ++ s.M[4 * k.val + 1]'(by omega) ++
        s.M[4 * k.val + 2]'(by omega) ++ s.M[4 * k.val + 3]'(by omega) : Word) ∧
      Runs s (getw k) { s with RESULT := r, replies := ⟨4, r⟩ :: s.replies }) ∧
    (∀ n : Fin 32, ∀ p ∈ [(Instr.rotr n, rotr x n.val), (.shr n, shr x n.val), (.ch, ch x y z),
        (.maj, maj x y z), (.bsig0, bigSigma0 x), (.bsig1, bigSigma1 x), (.ssig0, smallSigma0 x),
        (.ssig1, smallSigma1 x), (.add, x + y), (.add3, x + y + z)],
      Runs s (alu3 p.1 x y z) { s with
        OPY := y
        OPZ := z
        DATA := x
        RESULT := p.2
        replies := ⟨4, p.2⟩ :: s.replies }) ∧
    Runs s clrerr { s with CMDERR := false, BUSYERR := false, ACCERR := false }

/-- R193, R197: a padded form whose length is no multiple of 64, or that gives another number of
blocks than its message's length asks for, is a defect of the host; any other is split into
blocks that are its bytes in order. -/
def Obligations.SplittingChecksThePadding : Prop :=
  ∀ (L : Nat) (p : List Byte),
    (p.length % 64 ≠ 0 → splitBlocks L p = .error .paddedLength) ∧
    (p.length % 64 = 0 → p.length / 64 ≠ (L + 8) / 64 + 1 →
      splitBlocks L p = .error .blockCount) ∧
    (p.length = 64 * ((L + 8) / 64 + 1) →
      ∃ bs, splitBlocks L p = .ok bs ∧ bs.length = (L + 8) / 64 + 1 ∧
        (bs.flatMap fun B => B.toList) = p)

/-- R83, R234, with R239 and R242 (log entry 14 for the gaps): `WAIT` reads `STATUS`, and again
exactly as long as bit 0 of what it read is 1. On an idle engine it makes one read; on a busy one it
ends, idle and with `DONE` set, where the turns before its reads reach the `65 − t` that are missing,
and still goes on where they do not. -/
def Obligations.WaitLoopsWhileBusy : Prop :=
  (∀ (s t : State) (gaps : List Nat), hostWait gaps s = .ok t →
    t.BUSY = false ∧ ∃ (r : BusReply) (rs : List BusReply), t.replies = r :: rs ++ s.replies ∧
      r.value.getLsbD 0 = false ∧ rs.length < gaps.length ∧
      ∀ q ∈ rs, q.value.getLsbD 0 = true) ∧
  (∀ (s : State) (n : Nat) (gaps : List Nat), s.BUSY = false →
    hostWait (n :: gaps) s =
      .ok { s with pending := [], replies := ⟨4, statusWord s⟩ :: s.replies }) ∧
  ∀ (s : State) (gaps : List Nat), s.BUSY = true →
    (65 - s.t.val ≤ gaps.sum →
      ∃ t, hostWait gaps s = .ok t ∧ t.BUSY = false ∧ t.DONE = true) ∧
    (gaps.sum < 65 - s.t.val → hostWait gaps s = .error .waiting)

/-- R195 (which the spec marks as derived), R67, R198: from an idle engine with clear error flags, with
a `WAIT` run to its end for each block, the digest program answers `digest(m)`, which is 32 bytes:
the words of `CompressSeq(IV, blocks of pad(m))`, each big-endian. That a `WAIT` is given the number
of turns before each of its reads, here at least 65 in all, is the model's choice (log entry 14). -/
def Obligations.DigestProgramComputesDigest : Prop :=
  (∀ v : Word, be32 v =
    [v.extractLsb' 24 8, v.extractLsb' 16 8, v.extractLsb' 8 8, v.extractLsb' 0 8]) ∧
  ∀ (s : State) (m : List Byte) (gaps : Nat → List Nat), s.BUSY = false → NoErrors s →
    (∀ j, j < (m.length + 8) / 64 + 1 → 65 ≤ (gaps j).sum) →
    ∃ bs d, splitBlocks m.length (pad m) = .ok bs ∧
      d = (compressSeq Config.IV bs).toList.flatMap be32 ∧ d.length = 32 ∧
      digest m = .ok d ∧ runDigest m gaps s = .ok d

/-- R195, R197 (R195 the spec marks as derived): a host program that has a command refused answers a
fault of the host and never a result. A result, from whatever state and however long the waits, is
`digest(m)` or `CompressSeq` of the blocks. With the engine busy at the start some command is
refused, and the digest program takes an error flag set at the start for a refusal too. A program
whose wait has not ended has no result yet. The gaps of a `WAIT`, and that the compress program finds
a refusal where it happens, are the model's choice (log entry 14). -/
def Obligations.RefusedCommandIsAHostDefect : Prop :=
  (∀ (s : State) (m : List Byte) (gaps : Nat → List Nat),
    (∀ d, runDigest m gaps s = .ok d → digest m = .ok d) ∧
    ((∀ j, j < (m.length + 8) / 64 + 1 → 65 ≤ (gaps j).sum) → (s.BUSY = true ∨ ¬NoErrors s) →
      runDigest m gaps s = .error .refusedCommand) ∧
    (s.BUSY = false → (∃ j, j < (m.length + 8) / 64 + 1 ∧ (gaps j).sum < 65) →
      runDigest m gaps s = .error .waiting)) ∧
  ∀ (s : State) (H : Vector Word 8) (bs : List (Vector Byte 64 × List Nat)),
    (∀ ws, runCompress H bs s = .ok ws → ws = (compressSeq H (bs.map (·.1))).toList) ∧
    (s.BUSY = true → runCompress H bs s = .error .refusedCommand) ∧
    (s.BUSY = false → (∃ b ∈ bs, b.2.sum < 65) → runCompress H bs s = .error .waiting)
end

