-- ==== Sys2Proof/Laws/State.lean ====
section
/-! SUPPORT. What each named update of the state does to each field: one lemma per field per
update, for simp. -/

namespace Sys2Proof.Machine

variable (s : State)

section setRESULT
variable (x : Word)
@[simp] theorem setRESULT_H : (s.setRESULT x).H = s.H := rfl
@[simp] theorem setRESULT_M : (s.setRESULT x).M = s.M := rfl
@[simp] theorem setRESULT_W : (s.setRESULT x).W = s.W := rfl
@[simp] theorem setRESULT_v : (s.setRESULT x).v = s.v := rfl
@[simp] theorem setRESULT_t : (s.setRESULT x).t = s.t := rfl
@[simp] theorem setRESULT_DATA : (s.setRESULT x).DATA = s.DATA := rfl
@[simp] theorem setRESULT_RESULT : (s.setRESULT x).RESULT = x := rfl
@[simp] theorem setRESULT_OPY : (s.setRESULT x).OPY = s.OPY := rfl
@[simp] theorem setRESULT_OPZ : (s.setRESULT x).OPZ = s.OPZ := rfl
@[simp] theorem setRESULT_BUSY : (s.setRESULT x).BUSY = s.BUSY := rfl
@[simp] theorem setRESULT_DONE : (s.setRESULT x).DONE = s.DONE := rfl
@[simp] theorem setRESULT_CMDERR : (s.setRESULT x).CMDERR = s.CMDERR := rfl
@[simp] theorem setRESULT_BUSYERR : (s.setRESULT x).BUSYERR = s.BUSYERR := rfl
@[simp] theorem setRESULT_ACCERR : (s.setRESULT x).ACCERR = s.ACCERR := rfl
@[simp] theorem setRESULT_pending : (s.setRESULT x).pending = s.pending := rfl
@[simp] theorem setRESULT_replies : (s.setRESULT x).replies = s.replies := rfl
end setRESULT

section setDATA
variable (x : Word)
@[simp] theorem setDATA_H : (s.setDATA x).H = s.H := rfl
@[simp] theorem setDATA_M : (s.setDATA x).M = s.M := rfl
@[simp] theorem setDATA_W : (s.setDATA x).W = s.W := rfl
@[simp] theorem setDATA_v : (s.setDATA x).v = s.v := rfl
@[simp] theorem setDATA_t : (s.setDATA x).t = s.t := rfl
@[simp] theorem setDATA_DATA : (s.setDATA x).DATA = x := rfl
@[simp] theorem setDATA_RESULT : (s.setDATA x).RESULT = s.RESULT := rfl
@[simp] theorem setDATA_OPY : (s.setDATA x).OPY = s.OPY := rfl
@[simp] theorem setDATA_OPZ : (s.setDATA x).OPZ = s.OPZ := rfl
@[simp] theorem setDATA_BUSY : (s.setDATA x).BUSY = s.BUSY := rfl
@[simp] theorem setDATA_DONE : (s.setDATA x).DONE = s.DONE := rfl
@[simp] theorem setDATA_CMDERR : (s.setDATA x).CMDERR = s.CMDERR := rfl
@[simp] theorem setDATA_BUSYERR : (s.setDATA x).BUSYERR = s.BUSYERR := rfl
@[simp] theorem setDATA_ACCERR : (s.setDATA x).ACCERR = s.ACCERR := rfl
@[simp] theorem setDATA_pending : (s.setDATA x).pending = s.pending := rfl
@[simp] theorem setDATA_replies : (s.setDATA x).replies = s.replies := rfl
end setDATA

section setOPY
variable (x : Word)
@[simp] theorem setOPY_H : (s.setOPY x).H = s.H := rfl
@[simp] theorem setOPY_M : (s.setOPY x).M = s.M := rfl
@[simp] theorem setOPY_W : (s.setOPY x).W = s.W := rfl
@[simp] theorem setOPY_v : (s.setOPY x).v = s.v := rfl
@[simp] theorem setOPY_t : (s.setOPY x).t = s.t := rfl
@[simp] theorem setOPY_DATA : (s.setOPY x).DATA = s.DATA := rfl
@[simp] theorem setOPY_RESULT : (s.setOPY x).RESULT = s.RESULT := rfl
@[simp] theorem setOPY_OPY : (s.setOPY x).OPY = x := rfl
@[simp] theorem setOPY_OPZ : (s.setOPY x).OPZ = s.OPZ := rfl
@[simp] theorem setOPY_BUSY : (s.setOPY x).BUSY = s.BUSY := rfl
@[simp] theorem setOPY_DONE : (s.setOPY x).DONE = s.DONE := rfl
@[simp] theorem setOPY_CMDERR : (s.setOPY x).CMDERR = s.CMDERR := rfl
@[simp] theorem setOPY_BUSYERR : (s.setOPY x).BUSYERR = s.BUSYERR := rfl
@[simp] theorem setOPY_ACCERR : (s.setOPY x).ACCERR = s.ACCERR := rfl
@[simp] theorem setOPY_pending : (s.setOPY x).pending = s.pending := rfl
@[simp] theorem setOPY_replies : (s.setOPY x).replies = s.replies := rfl
end setOPY

section setOPZ
variable (x : Word)
@[simp] theorem setOPZ_H : (s.setOPZ x).H = s.H := rfl
@[simp] theorem setOPZ_M : (s.setOPZ x).M = s.M := rfl
@[simp] theorem setOPZ_W : (s.setOPZ x).W = s.W := rfl
@[simp] theorem setOPZ_v : (s.setOPZ x).v = s.v := rfl
@[simp] theorem setOPZ_t : (s.setOPZ x).t = s.t := rfl
@[simp] theorem setOPZ_DATA : (s.setOPZ x).DATA = s.DATA := rfl
@[simp] theorem setOPZ_RESULT : (s.setOPZ x).RESULT = s.RESULT := rfl
@[simp] theorem setOPZ_OPY : (s.setOPZ x).OPY = s.OPY := rfl
@[simp] theorem setOPZ_OPZ : (s.setOPZ x).OPZ = x := rfl
@[simp] theorem setOPZ_BUSY : (s.setOPZ x).BUSY = s.BUSY := rfl
@[simp] theorem setOPZ_DONE : (s.setOPZ x).DONE = s.DONE := rfl
@[simp] theorem setOPZ_CMDERR : (s.setOPZ x).CMDERR = s.CMDERR := rfl
@[simp] theorem setOPZ_BUSYERR : (s.setOPZ x).BUSYERR = s.BUSYERR := rfl
@[simp] theorem setOPZ_ACCERR : (s.setOPZ x).ACCERR = s.ACCERR := rfl
@[simp] theorem setOPZ_pending : (s.setOPZ x).pending = s.pending := rfl
@[simp] theorem setOPZ_replies : (s.setOPZ x).replies = s.replies := rfl
end setOPZ

section setH
variable (x : Vector Word 8)
@[simp] theorem setH_H : (s.setH x).H = x := rfl
@[simp] theorem setH_M : (s.setH x).M = s.M := rfl
@[simp] theorem setH_W : (s.setH x).W = s.W := rfl
@[simp] theorem setH_v : (s.setH x).v = s.v := rfl
@[simp] theorem setH_t : (s.setH x).t = s.t := rfl
@[simp] theorem setH_DATA : (s.setH x).DATA = s.DATA := rfl
@[simp] theorem setH_RESULT : (s.setH x).RESULT = s.RESULT := rfl
@[simp] theorem setH_OPY : (s.setH x).OPY = s.OPY := rfl
@[simp] theorem setH_OPZ : (s.setH x).OPZ = s.OPZ := rfl
@[simp] theorem setH_BUSY : (s.setH x).BUSY = s.BUSY := rfl
@[simp] theorem setH_DONE : (s.setH x).DONE = s.DONE := rfl
@[simp] theorem setH_CMDERR : (s.setH x).CMDERR = s.CMDERR := rfl
@[simp] theorem setH_BUSYERR : (s.setH x).BUSYERR = s.BUSYERR := rfl
@[simp] theorem setH_ACCERR : (s.setH x).ACCERR = s.ACCERR := rfl
@[simp] theorem setH_pending : (s.setH x).pending = s.pending := rfl
@[simp] theorem setH_replies : (s.setH x).replies = s.replies := rfl
end setH

section setM
variable (x : Vector Byte 64)
@[simp] theorem setM_H : (s.setM x).H = s.H := rfl
@[simp] theorem setM_M : (s.setM x).M = x := rfl
@[simp] theorem setM_W : (s.setM x).W = s.W := rfl
@[simp] theorem setM_v : (s.setM x).v = s.v := rfl
@[simp] theorem setM_t : (s.setM x).t = s.t := rfl
@[simp] theorem setM_DATA : (s.setM x).DATA = s.DATA := rfl
@[simp] theorem setM_RESULT : (s.setM x).RESULT = s.RESULT := rfl
@[simp] theorem setM_OPY : (s.setM x).OPY = s.OPY := rfl
@[simp] theorem setM_OPZ : (s.setM x).OPZ = s.OPZ := rfl
@[simp] theorem setM_BUSY : (s.setM x).BUSY = s.BUSY := rfl
@[simp] theorem setM_DONE : (s.setM x).DONE = s.DONE := rfl
@[simp] theorem setM_CMDERR : (s.setM x).CMDERR = s.CMDERR := rfl
@[simp] theorem setM_BUSYERR : (s.setM x).BUSYERR = s.BUSYERR := rfl
@[simp] theorem setM_ACCERR : (s.setM x).ACCERR = s.ACCERR := rfl
@[simp] theorem setM_pending : (s.setM x).pending = s.pending := rfl
@[simp] theorem setM_replies : (s.setM x).replies = s.replies := rfl
end setM

section setDONE
variable (x : Bool)
@[simp] theorem setDONE_H : (s.setDONE x).H = s.H := rfl
@[simp] theorem setDONE_M : (s.setDONE x).M = s.M := rfl
@[simp] theorem setDONE_W : (s.setDONE x).W = s.W := rfl
@[simp] theorem setDONE_v : (s.setDONE x).v = s.v := rfl
@[simp] theorem setDONE_t : (s.setDONE x).t = s.t := rfl
@[simp] theorem setDONE_DATA : (s.setDONE x).DATA = s.DATA := rfl
@[simp] theorem setDONE_RESULT : (s.setDONE x).RESULT = s.RESULT := rfl
@[simp] theorem setDONE_OPY : (s.setDONE x).OPY = s.OPY := rfl
@[simp] theorem setDONE_OPZ : (s.setDONE x).OPZ = s.OPZ := rfl
@[simp] theorem setDONE_BUSY : (s.setDONE x).BUSY = s.BUSY := rfl
@[simp] theorem setDONE_DONE : (s.setDONE x).DONE = x := rfl
@[simp] theorem setDONE_CMDERR : (s.setDONE x).CMDERR = s.CMDERR := rfl
@[simp] theorem setDONE_BUSYERR : (s.setDONE x).BUSYERR = s.BUSYERR := rfl
@[simp] theorem setDONE_ACCERR : (s.setDONE x).ACCERR = s.ACCERR := rfl
@[simp] theorem setDONE_pending : (s.setDONE x).pending = s.pending := rfl
@[simp] theorem setDONE_replies : (s.setDONE x).replies = s.replies := rfl
end setDONE

section pushReply
variable (x : BusReply)
@[simp] theorem pushReply_H : (s.pushReply x).H = s.H := rfl
@[simp] theorem pushReply_M : (s.pushReply x).M = s.M := rfl
@[simp] theorem pushReply_W : (s.pushReply x).W = s.W := rfl
@[simp] theorem pushReply_v : (s.pushReply x).v = s.v := rfl
@[simp] theorem pushReply_t : (s.pushReply x).t = s.t := rfl
@[simp] theorem pushReply_DATA : (s.pushReply x).DATA = s.DATA := rfl
@[simp] theorem pushReply_RESULT : (s.pushReply x).RESULT = s.RESULT := rfl
@[simp] theorem pushReply_OPY : (s.pushReply x).OPY = s.OPY := rfl
@[simp] theorem pushReply_OPZ : (s.pushReply x).OPZ = s.OPZ := rfl
@[simp] theorem pushReply_BUSY : (s.pushReply x).BUSY = s.BUSY := rfl
@[simp] theorem pushReply_DONE : (s.pushReply x).DONE = s.DONE := rfl
@[simp] theorem pushReply_CMDERR : (s.pushReply x).CMDERR = s.CMDERR := rfl
@[simp] theorem pushReply_BUSYERR : (s.pushReply x).BUSYERR = s.BUSYERR := rfl
@[simp] theorem pushReply_ACCERR : (s.pushReply x).ACCERR = s.ACCERR := rfl
@[simp] theorem pushReply_pending : (s.pushReply x).pending = s.pending := rfl
@[simp] theorem pushReply_replies : (s.pushReply x).replies = x :: s.replies := rfl
end pushReply

section setPending
variable (x : List Event)
@[simp] theorem setPending_H : (s.setPending x).H = s.H := rfl
@[simp] theorem setPending_M : (s.setPending x).M = s.M := rfl
@[simp] theorem setPending_W : (s.setPending x).W = s.W := rfl
@[simp] theorem setPending_v : (s.setPending x).v = s.v := rfl
@[simp] theorem setPending_t : (s.setPending x).t = s.t := rfl
@[simp] theorem setPending_DATA : (s.setPending x).DATA = s.DATA := rfl
@[simp] theorem setPending_RESULT : (s.setPending x).RESULT = s.RESULT := rfl
@[simp] theorem setPending_OPY : (s.setPending x).OPY = s.OPY := rfl
@[simp] theorem setPending_OPZ : (s.setPending x).OPZ = s.OPZ := rfl
@[simp] theorem setPending_BUSY : (s.setPending x).BUSY = s.BUSY := rfl
@[simp] theorem setPending_DONE : (s.setPending x).DONE = s.DONE := rfl
@[simp] theorem setPending_CMDERR : (s.setPending x).CMDERR = s.CMDERR := rfl
@[simp] theorem setPending_BUSYERR : (s.setPending x).BUSYERR = s.BUSYERR := rfl
@[simp] theorem setPending_ACCERR : (s.setPending x).ACCERR = s.ACCERR := rfl
@[simp] theorem setPending_pending : (s.setPending x).pending = x := rfl
@[simp] theorem setPending_replies : (s.setPending x).replies = s.replies := rfl
end setPending

section clearErr
variable (x : Word)
@[simp] theorem clearErr_H : (s.clearErr x).H = s.H := rfl
@[simp] theorem clearErr_M : (s.clearErr x).M = s.M := rfl
@[simp] theorem clearErr_W : (s.clearErr x).W = s.W := rfl
@[simp] theorem clearErr_v : (s.clearErr x).v = s.v := rfl
@[simp] theorem clearErr_t : (s.clearErr x).t = s.t := rfl
@[simp] theorem clearErr_DATA : (s.clearErr x).DATA = s.DATA := rfl
@[simp] theorem clearErr_RESULT : (s.clearErr x).RESULT = s.RESULT := rfl
@[simp] theorem clearErr_OPY : (s.clearErr x).OPY = s.OPY := rfl
@[simp] theorem clearErr_OPZ : (s.clearErr x).OPZ = s.OPZ := rfl
@[simp] theorem clearErr_BUSY : (s.clearErr x).BUSY = s.BUSY := rfl
@[simp] theorem clearErr_DONE : (s.clearErr x).DONE = s.DONE := rfl
@[simp] theorem clearErr_CMDERR : (s.clearErr x).CMDERR = (s.CMDERR && !x.getLsbD 2) := rfl
@[simp] theorem clearErr_BUSYERR : (s.clearErr x).BUSYERR = (s.BUSYERR && !x.getLsbD 3) := rfl
@[simp] theorem clearErr_ACCERR : (s.clearErr x).ACCERR = (s.ACCERR && !x.getLsbD 4) := rfl
@[simp] theorem clearErr_pending : (s.clearErr x).pending = s.pending := rfl
@[simp] theorem clearErr_replies : (s.clearErr x).replies = s.replies := rfl
end clearErr

section acceptComp
@[simp] theorem acceptComp_H : s.acceptComp.H = s.H := by simp only [State.acceptComp]
@[simp] theorem acceptComp_M : s.acceptComp.M = s.M := by simp only [State.acceptComp]
@[simp] theorem acceptComp_W : s.acceptComp.W = loadSchedule s.M s.W := by simp only [State.acceptComp]
@[simp] theorem acceptComp_v : s.acceptComp.v = WorkVars.ofHash s.H := by simp only [State.acceptComp]
@[simp] theorem acceptComp_t : s.acceptComp.t = 0 := by simp only [State.acceptComp]
@[simp] theorem acceptComp_DATA : s.acceptComp.DATA = s.DATA := by simp only [State.acceptComp]
@[simp] theorem acceptComp_RESULT : s.acceptComp.RESULT = s.RESULT := by simp only [State.acceptComp]
@[simp] theorem acceptComp_OPY : s.acceptComp.OPY = s.OPY := by simp only [State.acceptComp]
@[simp] theorem acceptComp_OPZ : s.acceptComp.OPZ = s.OPZ := by simp only [State.acceptComp]
@[simp] theorem acceptComp_BUSY : s.acceptComp.BUSY = true := by simp only [State.acceptComp]
@[simp] theorem acceptComp_DONE : s.acceptComp.DONE = false := by simp only [State.acceptComp]
@[simp] theorem acceptComp_CMDERR : s.acceptComp.CMDERR = s.CMDERR := by simp only [State.acceptComp]
@[simp] theorem acceptComp_BUSYERR : s.acceptComp.BUSYERR = s.BUSYERR := by simp only [State.acceptComp]
@[simp] theorem acceptComp_ACCERR : s.acceptComp.ACCERR = s.ACCERR := by simp only [State.acceptComp]
@[simp] theorem acceptComp_pending : s.acceptComp.pending = s.pending := by simp only [State.acceptComp]
@[simp] theorem acceptComp_replies : s.acceptComp.replies = s.replies := by simp only [State.acceptComp]
end acceptComp

section roundStep
variable (x : Fin 64)
@[simp] theorem roundStep_H : (s.roundStep x).H = s.H := by simp only [State.roundStep]
@[simp] theorem roundStep_M : (s.roundStep x).M = s.M := by simp only [State.roundStep]
@[simp] theorem roundStep_W : (s.roundStep x).W = s.W.set x.val (scheduleWord s.W x) := by simp only [State.roundStep]
@[simp] theorem roundStep_v : (s.roundStep x).v = compressionRound x s.v (scheduleWord s.W x) := by simp only [State.roundStep]
@[simp] theorem roundStep_t : (s.roundStep x).t = x.succ := by simp only [State.roundStep]
@[simp] theorem roundStep_DATA : (s.roundStep x).DATA = s.DATA := by simp only [State.roundStep]
@[simp] theorem roundStep_RESULT : (s.roundStep x).RESULT = s.RESULT := by simp only [State.roundStep]
@[simp] theorem roundStep_OPY : (s.roundStep x).OPY = s.OPY := by simp only [State.roundStep]
@[simp] theorem roundStep_OPZ : (s.roundStep x).OPZ = s.OPZ := by simp only [State.roundStep]
@[simp] theorem roundStep_BUSY : (s.roundStep x).BUSY = s.BUSY := by simp only [State.roundStep]
@[simp] theorem roundStep_DONE : (s.roundStep x).DONE = s.DONE := by simp only [State.roundStep]
@[simp] theorem roundStep_CMDERR : (s.roundStep x).CMDERR = s.CMDERR := by simp only [State.roundStep]
@[simp] theorem roundStep_BUSYERR : (s.roundStep x).BUSYERR = s.BUSYERR := by simp only [State.roundStep]
@[simp] theorem roundStep_ACCERR : (s.roundStep x).ACCERR = s.ACCERR := by simp only [State.roundStep]
@[simp] theorem roundStep_pending : (s.roundStep x).pending = s.pending := by simp only [State.roundStep]
@[simp] theorem roundStep_replies : (s.roundStep x).replies = s.replies := by simp only [State.roundStep]
end roundStep

section updateStep
@[simp] theorem updateStep_H : s.updateStep.H = addHash s.H s.v := by simp only [State.updateStep]
@[simp] theorem updateStep_M : s.updateStep.M = s.M := by simp only [State.updateStep]
@[simp] theorem updateStep_W : s.updateStep.W = s.W := by simp only [State.updateStep]
@[simp] theorem updateStep_v : s.updateStep.v = s.v := by simp only [State.updateStep]
@[simp] theorem updateStep_t : s.updateStep.t = s.t := by simp only [State.updateStep]
@[simp] theorem updateStep_DATA : s.updateStep.DATA = s.DATA := by simp only [State.updateStep]
@[simp] theorem updateStep_RESULT : s.updateStep.RESULT = s.RESULT := by simp only [State.updateStep]
@[simp] theorem updateStep_OPY : s.updateStep.OPY = s.OPY := by simp only [State.updateStep]
@[simp] theorem updateStep_OPZ : s.updateStep.OPZ = s.OPZ := by simp only [State.updateStep]
@[simp] theorem updateStep_BUSY : s.updateStep.BUSY = false := by simp only [State.updateStep]
@[simp] theorem updateStep_DONE : s.updateStep.DONE = true := by simp only [State.updateStep]
@[simp] theorem updateStep_CMDERR : s.updateStep.CMDERR = s.CMDERR := by simp only [State.updateStep]
@[simp] theorem updateStep_BUSYERR : s.updateStep.BUSYERR = s.BUSYERR := by simp only [State.updateStep]
@[simp] theorem updateStep_ACCERR : s.updateStep.ACCERR = s.ACCERR := by simp only [State.updateStep]
@[simp] theorem updateStep_pending : s.updateStep.pending = s.pending := by simp only [State.updateStep]
@[simp] theorem updateStep_replies : s.updateStep.replies = s.replies := by simp only [State.updateStep]
end updateStep

@[simp] theorem raiseErr_H (F : ErrFlag) : (s.raiseErr F).H = s.H := by cases F <;> rfl
@[simp] theorem raiseErr_M (F : ErrFlag) : (s.raiseErr F).M = s.M := by cases F <;> rfl
@[simp] theorem raiseErr_W (F : ErrFlag) : (s.raiseErr F).W = s.W := by cases F <;> rfl
@[simp] theorem raiseErr_v (F : ErrFlag) : (s.raiseErr F).v = s.v := by cases F <;> rfl
@[simp] theorem raiseErr_t (F : ErrFlag) : (s.raiseErr F).t = s.t := by cases F <;> rfl
@[simp] theorem raiseErr_DATA (F : ErrFlag) : (s.raiseErr F).DATA = s.DATA := by cases F <;> rfl
@[simp] theorem raiseErr_RESULT (F : ErrFlag) : (s.raiseErr F).RESULT = s.RESULT := by cases F <;> rfl
@[simp] theorem raiseErr_OPY (F : ErrFlag) : (s.raiseErr F).OPY = s.OPY := by cases F <;> rfl
@[simp] theorem raiseErr_OPZ (F : ErrFlag) : (s.raiseErr F).OPZ = s.OPZ := by cases F <;> rfl
@[simp] theorem raiseErr_BUSY (F : ErrFlag) : (s.raiseErr F).BUSY = s.BUSY := by cases F <;> rfl
@[simp] theorem raiseErr_DONE (F : ErrFlag) : (s.raiseErr F).DONE = s.DONE := by cases F <;> rfl
@[simp] theorem raiseErr_CMDERR (F : ErrFlag) :
    (s.raiseErr F).CMDERR = (s.CMDERR || decide (F = .CMDERR)) := by cases F <;> simp [State.raiseErr]
@[simp] theorem raiseErr_BUSYERR (F : ErrFlag) :
    (s.raiseErr F).BUSYERR = (s.BUSYERR || decide (F = .BUSYERR)) := by cases F <;> simp [State.raiseErr]
@[simp] theorem raiseErr_ACCERR (F : ErrFlag) :
    (s.raiseErr F).ACCERR = (s.ACCERR || decide (F = .ACCERR)) := by cases F <;> simp [State.raiseErr]
@[simp] theorem raiseErr_pending (F : ErrFlag) : (s.raiseErr F).pending = s.pending := by cases F <;> rfl
@[simp] theorem raiseErr_replies (F : ErrFlag) : (s.raiseErr F).replies = s.replies := by cases F <;> rfl
@[simp] theorem resetEngine_H : s.resetEngine.H = State.reset.H := rfl
@[simp] theorem resetEngine_M : s.resetEngine.M = State.reset.M := rfl
@[simp] theorem resetEngine_W : s.resetEngine.W = State.reset.W := rfl
@[simp] theorem resetEngine_v : s.resetEngine.v = State.reset.v := rfl
@[simp] theorem resetEngine_t : s.resetEngine.t = State.reset.t := rfl
@[simp] theorem resetEngine_DATA : s.resetEngine.DATA = State.reset.DATA := rfl
@[simp] theorem resetEngine_RESULT : s.resetEngine.RESULT = State.reset.RESULT := rfl
@[simp] theorem resetEngine_OPY : s.resetEngine.OPY = State.reset.OPY := rfl
@[simp] theorem resetEngine_OPZ : s.resetEngine.OPZ = State.reset.OPZ := rfl
@[simp] theorem resetEngine_BUSY : s.resetEngine.BUSY = State.reset.BUSY := rfl
@[simp] theorem resetEngine_DONE : s.resetEngine.DONE = State.reset.DONE := rfl
@[simp] theorem resetEngine_CMDERR : s.resetEngine.CMDERR = State.reset.CMDERR := rfl
@[simp] theorem resetEngine_BUSYERR : s.resetEngine.BUSYERR = State.reset.BUSYERR := rfl
@[simp] theorem resetEngine_ACCERR : s.resetEngine.ACCERR = State.reset.ACCERR := rfl
@[simp] theorem resetEngine_pending : s.resetEngine.pending = s.pending := rfl
@[simp] theorem resetEngine_replies : s.resetEngine.replies = s.replies := rfl

end Sys2Proof.Machine
end

