-- ==== Sys2Proof/Laws/Ops.lean ====
section
/-! SUPPORT. What the shared operations and `step` can do, said once: the command check
(`whenIdle`, `exec_eq_whenIdle`), the sequencer's step, the accesses, and the inversion of one
step (`step_next_cases`). -/

namespace Sys2Proof.Machine

variable {s t : State}

/-- The effect a command has once it has passed the busy check; `exec_eq_whenIdle` says that this
and the check are all of `exec`. -/
def commandEffect : Instr → State → State
  | .nop, s => s
  | .init, s => (s.setH Config.IV).setDONE false
  | .wrh i, s => (s.setH (s.H.set i.val s.DATA)).setDONE false
  | .rdh i, s => s.setRESULT s.H[i.val]
  | .wrw i, s => s.setM (putBlockWord s.M i s.DATA)
  | .rdw i, s => s.setRESULT (blockWord s.M i)
  | .wrb j, s => s.setM (s.M.set j.val (lowByte s.DATA))
  | .comp, s => s.acceptComp
  | .rotr n, s => s.setRESULT (rotr s.DATA n)
  | .shr n, s => s.setRESULT (shr s.DATA n)
  | .ch, s => s.setRESULT (ch s.DATA s.OPY s.OPZ)
  | .maj, s => s.setRESULT (maj s.DATA s.OPY s.OPZ)
  | .bsig0, s => s.setRESULT (bigSigma0 s.DATA)
  | .bsig1, s => s.setRESULT (bigSigma1 s.DATA)
  | .ssig0, s => s.setRESULT (smallSigma0 s.DATA)
  | .ssig1, s => s.setRESULT (smallSigma1 s.DATA)
  | .add, s => s.setRESULT (add2 s.DATA s.OPY)
  | .add3, s => s.setRESULT (add3 s.DATA s.OPY s.OPZ)
  | .wry, s => s.setOPY s.DATA
  | .wrz, s => s.setOPZ s.DATA
  | .rdk i, s => s.setRESULT Config.K[i.val]
  | .rdiv i, s => s.setRESULT Config.IV[i.val]

theorem whenIdle_of_idle (f : State → State) (h : s.BUSY = false) : whenIdle f s = .next (f s) := by
  simp [whenIdle, h]

theorem whenIdle_of_busy (f : State → State) (h : s.BUSY = true) :
    whenIdle f s = .next (s.raiseErr .BUSYERR) := by
  simp [whenIdle, h]

theorem exec_eq_whenIdle (i : Instr) (s : State) : exec i s = whenIdle (commandEffect i) s := by
  cases i <;> rfl

theorem exec_of_idle (i : Instr) (h : s.BUSY = false) : exec i s = .next (commandEffect i s) := by
  rw [exec_eq_whenIdle, whenIdle_of_idle _ h]

theorem exec_of_busy (i : Instr) (h : s.BUSY = true) : exec i s = .next (s.raiseErr .BUSYERR) := by
  rw [exec_eq_whenIdle, whenIdle_of_busy _ h]

theorem commandEffect_pending (i : Instr) (s : State) :
    (commandEffect i s).pending = s.pending := by
  cases i <;> simp [commandEffect]

theorem commandEffect_replies (i : Instr) (s : State) :
    (commandEffect i s).replies = s.replies := by
  cases i <;> simp [commandEffect]

theorem commandEffect_flags (i : Instr) (s : State) :
    (commandEffect i s).CMDERR = s.CMDERR ∧ (commandEffect i s).BUSYERR = s.BUSYERR ∧
      (commandEffect i s).ACCERR = s.ACCERR := by
  cases i <;> simp [commandEffect]

theorem sequencerStep_of_idle (h : s.BUSY = false) : s.sequencerStep = s := by
  simp [State.sequencerStep, h]

theorem sequencerStep_of_round (h : s.BUSY = true) (ht : s.t.val < 64) :
    s.sequencerStep = s.roundStep ⟨s.t.val, ht⟩ := by
  simp [State.sequencerStep, h, ht]

theorem sequencerStep_of_update (h : s.BUSY = true) (ht : s.t.val = 64) :
    s.sequencerStep = s.updateStep := by
  simp [State.sequencerStep, h, ht]

/-- Everything the sequencer's step can do. -/
theorem sequencerStep_cases (s : State) :
    (s.BUSY = false ∧ s.sequencerStep = s) ∨
    (s.BUSY = true ∧ ∃ ht : s.t.val < 64, s.sequencerStep = s.roundStep ⟨s.t.val, ht⟩) ∨
    (s.BUSY = true ∧ s.t.val = 64 ∧ s.sequencerStep = s.updateStep) := by
  cases hb : s.BUSY
  · exact .inl ⟨rfl, sequencerStep_of_idle hb⟩
  · have := s.t.isLt
    by_cases ht : s.t.val < 64
    · exact .inr (.inl ⟨rfl, ht, sequencerStep_of_round hb ht⟩)
    · exact .inr (.inr ⟨rfl, by omega, sequencerStep_of_update hb (by omega)⟩)

/-- The only admitted access (R51). -/
theorem admitted_iff (off : Fin 16) (size : Nat) :
    admitted off size = true ↔ size = 4 ∧ off.val % 4 = 0 := by
  simp [admitted, sizeOk, alignedOk]

theorem step_of_nil (h : s.pending = []) : step s = .next s.sequencerStep := by
  simp [step, h]

theorem step_of_cons {e : Event} {rest : List Event} (h : s.pending = e :: rest) :
    step s = performEvent e (s.setPending rest) := by
  simp [step, h]

/-- What a `CMD` write can do: it always answers a next state. -/
theorem writeCMD_cases (w : Word) (s : State) :
    (s.BUSY = true ∧ writeCMD w s = .next (s.raiseErr .BUSYERR)) ∨
    (s.BUSY = false ∧ decode w = none ∧ writeCMD w s = .next (s.raiseErr .CMDERR)) ∨
    (s.BUSY = false ∧ ∃ i, decode w = some i ∧ writeCMD w s = .next (commandEffect i s)) := by
  cases hb : s.BUSY
  · cases hd : decode w with
    | none => exact .inr (.inl ⟨rfl, rfl, by simp [writeCMD, hb, hd]⟩)
    | some i => exact .inr (.inr ⟨rfl, i, rfl, by simp [writeCMD, hb, hd, exec_of_idle i hb]⟩)
  · exact .inl ⟨rfl, by simp [writeCMD, hb]⟩

/-- What a host write in the window can do: it always answers a next state. -/
theorem writeWindow_cases (off : Fin 16) (size : Nat) (x : Word) (s : State) :
    (admitted off size = false ∧ writeWindow off size x s = .next (s.raiseErr .ACCERR)) ∨
    (size = 4 ∧ off = 0 ∧ writeWindow off size x s = writeCMD x s) ∨
    (size = 4 ∧ off = 4 ∧ writeWindow off size x s = .next (s.setDATA x)) ∨
    (size = 4 ∧ off = 8 ∧ writeWindow off size x s = .next s) ∨
    (size = 4 ∧ off = 12 ∧ writeWindow off size x s = .next (s.clearErr x)) := by
  cases ha : admitted off size
  · exact .inl ⟨rfl, by simp [writeWindow, ha]⟩
  · obtain ⟨hs, ho⟩ := (admitted_iff off size).1 ha
    have hoff : off = 0 ∨ off = 4 ∨ off = 8 ∨ off = 12 := by omega
    subst hs
    rcases hoff with h | h | h | h <;> subst h <;> simp [writeWindow, ha, regAt, writeReg]

/-- Everything one step that answers a next state can have done. -/
theorem step_next_cases (h : step s = .next t) :
    (s.pending = [] ∧ t = s.sequencerStep) ∨
    ∃ e rest, s.pending = e :: rest ∧
      ((e = .turn ∧ t = (s.setPending rest).sequencerStep) ∨
       (e = .reset ∧ t = (s.setPending rest).resetEngine) ∨
       (∃ off size, e = .read (.window off) size ∧ t = readWindow off size (s.setPending rest)) ∨
       (∃ off size x, e = .write (.window off) size x ∧ admitted off size = false ∧
          t = (s.setPending rest).raiseErr .ACCERR) ∨
       (∃ x, e = .write (.window 4) 4 x ∧ t = (s.setPending rest).setDATA x) ∨
       (∃ x, e = .write (.window 8) 4 x ∧ t = s.setPending rest) ∨
       (∃ x, e = .write (.window 12) 4 x ∧ t = (s.setPending rest).clearErr x) ∨
       (∃ w, e = .write (.window 0) 4 w ∧ s.BUSY = true ∧
          t = (s.setPending rest).raiseErr .BUSYERR) ∨
       (∃ w, e = .write (.window 0) 4 w ∧ s.BUSY = false ∧ decode w = none ∧
          t = (s.setPending rest).raiseErr .CMDERR) ∨
       (∃ w i, e = .write (.window 0) 4 w ∧ s.BUSY = false ∧ decode w = some i ∧
          t = commandEffect i (s.setPending rest))) := by
  cases hp : s.pending with
  | nil =>
    rw [step_of_nil hp] at h
    exact .inl ⟨rfl, (Host.Outcome.next.inj h).symm⟩
  | cons e rest =>
    refine .inr ⟨e, rest, rfl, ?_⟩
    rw [step_of_cons hp] at h
    cases e with
    | turn => exact .inl ⟨rfl, (Host.Outcome.next.inj h).symm⟩
    | reset => exact .inr (.inl ⟨rfl, (Host.Outcome.next.inj h).symm⟩)
    | read p size =>
      cases p with
      | elsewhere a => cases h
      | window off => exact .inr (.inr (.inl ⟨off, size, rfl, (Host.Outcome.next.inj h).symm⟩))
    | write p size x =>
      cases p with
      | elsewhere a => cases h
      | window off =>
        iterate 3 right
        change writeWindow off size x (s.setPending rest) = .next t at h
        rcases writeWindow_cases off size x (s.setPending rest) with
          ⟨ha, hw⟩ | ⟨rfl, rfl, hw⟩ | ⟨rfl, rfl, hw⟩ | ⟨rfl, rfl, hw⟩ | ⟨rfl, rfl, hw⟩ <;> rw [hw] at h
        · exact .inl ⟨off, size, x, rfl, ha, (Host.Outcome.next.inj h).symm⟩
        · iterate 4 right
          rcases writeCMD_cases x (s.setPending rest) with
            ⟨hb, hc⟩ | ⟨hb, hd, hc⟩ | ⟨hb, i, hd, hc⟩ <;> rw [hc] at h
          · exact .inl ⟨x, rfl, hb, (Host.Outcome.next.inj h).symm⟩
          · exact .inr (.inl ⟨x, rfl, hb, hd, (Host.Outcome.next.inj h).symm⟩)
          · exact .inr (.inr ⟨x, i, rfl, hb, hd, (Host.Outcome.next.inj h).symm⟩)
        · exact .inr (.inl ⟨x, rfl, (Host.Outcome.next.inj h).symm⟩)
        · exact .inr (.inr (.inl ⟨x, rfl, (Host.Outcome.next.inj h).symm⟩))
        · exact .inr (.inr (.inr (.inl ⟨x, rfl, (Host.Outcome.next.inj h).symm⟩)))

/-- A read changes only the replies and, where the access is not admitted, `ACCERR` (R52, R54). -/
theorem readWindow_cases (off : Fin 16) (size : Nat) (s : State) :
    (admitted off size = true ∧
      readWindow off size s = s.pushReply ⟨size, readReg s (regAt off)⟩) ∨
    (admitted off size = false ∧
      readWindow off size s = (s.raiseErr .ACCERR).pushReply ⟨size, 0⟩) := by
  cases ha : admitted off size
  · exact .inr ⟨rfl, by simp [readWindow, ha]⟩
  · exact .inl ⟨rfl, by simp [readWindow, ha]⟩

end Sys2Proof.Machine
end

