-- ==== Sys2Proof/Laws/Functions.lean ====
section
/-! SUPPORT. Small facts about the schedule and about when the compression invariant carries
over: which words of a schedule a later word depends on, and that the invariant looks only at
`BUSY`, `H`, `M`, `W`, `v` and `t`. -/

namespace Sys2Proof.Machine

theorem scheduleUpTo_zero (B : Vector Byte 64) : scheduleUpTo B 0 = scheduleStart B := rfl

theorem scheduleUpTo_succ (B : Vector Byte 64) {k : Nat} (h : k < 64) :
    scheduleUpTo B (k + 1) =
      (scheduleUpTo B k).set k (scheduleWord (scheduleUpTo B k) ⟨k, h⟩) h := by
  simp only [scheduleUpTo, h, dif_pos]

theorem varsAfter_zero (H : Vector Word 8) (w : Vector Word 64) :
    varsAfter H w 0 = WorkVars.ofHash H := rfl

theorem varsAfter_succ (H : Vector Word 8) (w : Vector Word 64) {k : Nat} (h : k < 64) :
    varsAfter H w (k + 1) = compressionRound ⟨k, h⟩ (varsAfter H w k) w[k] := by
  simp only [varsAfter, h, dif_pos]

/-- R160: the word of round `t` depends only on the block's words and the words before it. -/
theorem scheduleWord_congr {w w' : Vector Word 64} {t : Fin 64}
    (h : ∀ i : Fin 64, i.val < max 16 t.val → w[i.val] = w'[i.val]) :
    scheduleWord w t = scheduleWord w' t := by
  unfold scheduleWord
  split
  · exact h t (by omega)
  · rw [h ⟨t.val - 2, by omega⟩ (by simp only; omega), h ⟨t.val - 7, by omega⟩ (by simp only; omega),
      h ⟨t.val - 15, by omega⟩ (by simp only; omega), h ⟨t.val - 16, by omega⟩ (by simp only; omega)]

theorem compressionInv_congr {s t : State} (hB : t.BUSY = s.BUSY) (hH : t.H = s.H)
    (hM : t.M = s.M) (hW : t.W = s.W) (hv : t.v = s.v) (ht : t.t = s.t) :
    CompressionInv t ↔ CompressionInv s := by
  unfold CompressionInv
  rw [hB, hH, hM, hW, hv, ht]

theorem compressionInv_of_idle {s : State} (h : s.BUSY = false) : CompressionInv s := by
  intro hb
  rw [h] at hb
  cases hb

/-- Every bit of `STATUS` as the host reads it (R24). -/
theorem statusWord_getLsbD (s : State) (i : Nat) :
    (statusWord s).getLsbD i =
      if i = 0 then s.BUSY else if i = 1 then s.DONE else if i = 2 then s.CMDERR
      else if i = 3 then s.BUSYERR else if i = 4 then s.ACCERR
      else if 8 ≤ i ∧ i < 15 then s.t.val.testBit (i - 8) else false := by
  simp only [statusWord, roundField, BitVec.getLsbD_cast, BitVec.getLsbD_append,
    BitVec.getLsbD_ofBool, BitVec.getLsbD_ofNat, Nat.sub_sub]
  rcases Nat.lt_or_ge i 8 with h | h
  · interval_cases i <;> simp
  · simp only [show ¬ i < 1 by omega, show ¬ i - 1 < 1 by omega, show ¬ i - (1 + 1) < 1 by omega,
      show ¬ i - (1 + 1 + 1) < 1 by omega, show ¬ i - (1 + 1 + 1 + 1) < 1 by omega,
      show ¬ i - (1 + 1 + 1 + 1 + 1) < 3 by omega, if_false, Nat.reduceAdd]
    split_ifs <;> first | omega | simp; omega | simp_all

/-- Every bit of four concatenated bytes (R10). -/
theorem concatBytes_getLsbD (b0 b1 b2 b3 : Byte) (i : Nat) :
    (concatBytes b0 b1 b2 b3).getLsbD i =
      if i < 8 then b3.getLsbD i else if i < 16 then b2.getLsbD (i - 8)
      else if i < 24 then b1.getLsbD (i - 16) else b0.getLsbD (i - 24) := by
  simp only [concatBytes, BitVec.getLsbD_cast, BitVec.getLsbD_append]
  grind

end Sys2Proof.Machine
end

