-- ==== Sys2Proof/Laws/Runs.lean ====
section
/-! SUPPORT. How runs compose: an input is performed the same way whatever inputs come after it, so
a run over a list of inputs is one over its head and then one over its tail. -/

namespace Sys2Proof.Machine

variable {s t u : State}

@[simp] theorem setPending_setPending (s : State) (p q : List Event) :
    (s.setPending p).setPending q = s.setPending q := rfl

theorem setPending_of_pending {p : List Event} (h : s.pending = p) : s.setPending p = s := by
  subst h; rfl

theorem sequencerStep_setPending (s : State) (p : List Event) :
    (s.setPending p).sequencerStep = s.sequencerStep.setPending p := by
  rcases sequencerStep_cases s with ⟨hb, e⟩ | ⟨hb, ht, e⟩ | ⟨hb, ht, e⟩ <;> rw [e]
  · exact sequencerStep_of_idle (s := s.setPending p) hb
  · exact sequencerStep_of_round (s := s.setPending p) hb ht
  · exact sequencerStep_of_update (s := s.setPending p) hb ht

theorem raiseErr_setPending (s : State) (F : ErrFlag) (p : List Event) :
    (s.setPending p).raiseErr F = (s.raiseErr F).setPending p := by
  cases F <;> rfl

theorem commandEffect_setPending (i : Instr) (s : State) (p : List Event) :
    commandEffect i (s.setPending p) = (commandEffect i s).setPending p := by
  cases i <;> rfl

theorem readWindow_setPending (off : Fin 16) (size : Nat) (s : State) (p : List Event) :
    readWindow off size (s.setPending p) = (readWindow off size s).setPending p := by
  have hr : readReg (s.setPending p) (regAt off) = readReg s (regAt off) := by
    cases regAt off <;> rfl
  simp only [readWindow, hr]
  split
  · rfl
  · rw [raiseErr_setPending]; rfl

theorem writeCMD_setPending {w : Word} (h : writeCMD w s = .next t) (p : List Event) :
    writeCMD w (s.setPending p) = .next (t.setPending p) := by
  have hd : ∀ u : State, writeCMD w s = .next u → t = u := fun u hu =>
    Host.Outcome.next.inj (h.symm.trans hu)
  rcases writeCMD_cases w s with ⟨hb, hw⟩ | ⟨hb, hn, hw⟩ | ⟨hb, i, hi, hw⟩ <;> rw [hd _ hw]
  · rw [← raiseErr_setPending]
    simp [writeCMD, hb]
  · rw [← raiseErr_setPending]
    simp [writeCMD, hb, hn]
  · rw [← commandEffect_setPending, ← exec_of_idle (s := s.setPending p) i hb]
    simp [writeCMD, hb, hi]

theorem writeWindow_setPending {off : Fin 16} {size : Nat} {x : Word}
    (h : writeWindow off size x s = .next t) (p : List Event) :
    writeWindow off size x (s.setPending p) = .next (t.setPending p) := by
  simp only [writeWindow] at h ⊢
  split at h
  · rw [if_pos ‹_›]
    cases hr : regAt off <;> rw [hr] at h
    · exact writeCMD_setPending h p
    all_goals rw [← Host.Outcome.next.inj h]; rfl
  · rw [if_neg ‹_›, raiseErr_setPending, Host.Outcome.next.inj h]

/-- What an input does does not depend on the inputs after it. -/
theorem performEvent_setPending {e : Event} (h : performEvent e s = .next t) (p : List Event) :
    performEvent e (s.setPending p) = .next (t.setPending p) := by
  cases e with
  | turn =>
    rw [← Host.Outcome.next.inj h]
    exact congrArg Host.Outcome.next (sequencerStep_setPending s p)
  | reset => rw [← Host.Outcome.next.inj h]; rfl
  | read pl size =>
    cases pl with
    | elsewhere a => cases h
    | window off =>
      rw [← Host.Outcome.next.inj h]
      exact congrArg Host.Outcome.next (readWindow_setPending off size s p)
  | write pl size x =>
    cases pl with
    | elsewhere a => cases h
    | window off => exact writeWindow_setPending h p

/-- An input leaves the inputs after it alone. -/
theorem performEvent_pending {e : Event} (h : performEvent e s = .next t) :
    t.pending = s.pending := by
  have h' := performEvent_setPending h s.pending
  rw [setPending_of_pending rfl, h] at h'
  rw [Host.Outcome.next.inj h']; rfl

/-- Issuing a command on an idle engine has the command's effect. -/
theorem performEvent_issue {i : Instr} (hd : decode (encode i) = some i) (hb : s.BUSY = false) :
    performEvent (issue i) s = .next (commandEffect i s) := by
  change writeCMD (encode i) s = _
  rcases writeCMD_cases (encode i) s with ⟨h, _⟩ | ⟨_, h, _⟩ | ⟨_, j, h, e⟩
  · rw [hb] at h; cases h
  · rw [hd] at h; cases h
  · rw [hd] at h; cases h; exact e

theorem runSteps_zero (s : State) : runSteps 0 s = .next s := rfl

theorem runSteps_succ_of_next (n : Nat) (h : step s = .next t) :
    runSteps (n + 1) s = runSteps n t := by
  have hs : Host.Core.step core s = .next t := h
  simp only [runSteps, Host.Core.run, hs]
  rfl

theorem runSteps_succ_next (n : Nat) (h : runSteps (n + 1) s = .next t) :
    ∃ u, step s = .next u ∧ runSteps n u = .next t := by
  cases hs : step s with
  | next u => exact ⟨u, rfl, runSteps_succ_of_next n hs ▸ h⟩
  | fault r =>
    have hc : Host.Core.step core s = .fault r := hs
    simp only [runSteps, Host.Core.run, hc] at h
    cases h
  | refused r =>
    have hc : Host.Core.step core s = .refused r := hs
    simp only [runSteps, Host.Core.run, hc] at h
    cases h

theorem Runs_def (s : State) (es : List Event) (t : State) :
    Runs s es t ↔ runSteps es.length (s.setPending es) = .next (t.setPending []) := Iff.rfl

theorem Runs.nil (s : State) : Runs s [] s := rfl

/-- A run over `e :: es` is the step that performs `e`, then a run over `es`. -/
theorem Runs.cons {e : Event} {es : List Event} (h : performEvent e s = .next u)
    (hr : Runs u es t) : Runs s (e :: es) t := by
  have h1 : step (s.setPending (e :: es)) = .next (u.setPending es) :=
    (step_of_cons rfl).trans (performEvent_setPending h es)
  rw [Runs_def] at hr ⊢
  exact (runSteps_succ_of_next _ h1).trans hr

theorem Runs.cons_inv {e : Event} {es : List Event} (h : Runs s (e :: es) t) :
    ∃ u, performEvent e s = .next u ∧ Runs u es t := by
  rw [Runs_def] at h
  obtain ⟨u, hs, hu⟩ := runSteps_succ_next _ h
  have hp : performEvent e (s.setPending es) = .next u := hs
  have hv : u.pending = es := performEvent_pending hp
  refine ⟨u.setPending s.pending, ?_, ?_⟩
  · have h' := performEvent_setPending hp s.pending
    rwa [setPending_setPending, setPending_of_pending rfl] at h'
  · rw [Runs_def, setPending_setPending, setPending_of_pending hv]
    exact hu

theorem Runs.append {es fs : List Event} (h : Runs s es u) (hr : Runs u fs t) :
    Runs s (es ++ fs) t := by
  induction es generalizing s with
  | nil =>
    have hs : s.setPending [] = u.setPending [] := Host.Outcome.next.inj h
    have he : s.setPending fs = u.setPending fs := by
      rw [← setPending_setPending s [] fs, hs, setPending_setPending]
    rw [Runs_def] at hr ⊢
    rw [List.nil_append, he]
    exact hr
  | cons e es ih =>
    obtain ⟨v, hv, hes⟩ := h.cons_inv
    exact Runs.cons hv (ih hes)

end Sys2Proof.Machine
end

