-- ==== Sys2Proof/Laws/HostProgram.lean ====
section
/-! SUPPORT. What the host programs rest on: a run of window accesses and turns always has an end,
and one only; error flags stick where no input clears them; a refused command is seen by
`raisesWithin`; and what the replies of the last reads give. -/

namespace Sys2Proof.Machine

variable {s t u : State}

/-- Issuing a command on a busy engine only sets `BUSYERR` (R212). -/
theorem performEvent_issue_of_busy (i : Instr) (hb : s.BUSY = true) :
    performEvent (issue i) s = .next (s.raiseErr .BUSYERR) := by
  change writeCMD (encode i) s = _
  simp [writeCMD, hb]

theorem performEvent_writeDATA (v : Word) (s : State) :
    performEvent (writeDATA v) s = .next (s.setDATA v) := rfl

theorem performEvent_readRESULT (s : State) :
    performEvent readRESULT s = .next (s.pushReply ⟨4, s.RESULT⟩) := rfl

theorem performEvent_readSTATUS (s : State) :
    performEvent readSTATUS s = .next (s.pushReply ⟨4, statusWord s⟩) := rfl

/-- A turn or an access of the window always answers a next state (R210). -/
theorem performEvent_of_isOrdinary {e : Event} (h : isOrdinary e = true) (s : State) :
    ∃ t, performEvent e s = .next t := by
  cases e with
  | turn => exact ⟨_, rfl⟩
  | reset => cases h
  | read p size =>
    cases p with
    | window off => exact ⟨_, rfl⟩
    | elsewhere a => cases h
  | write p size x =>
    cases p with
    | elsewhere a => cases h
    | window off =>
      change ∃ t, writeWindow off size x s = .next t
      rcases writeWindow_cases off size x s with
        ⟨_, h⟩ | ⟨_, _, h⟩ | ⟨_, _, h⟩ | ⟨_, _, h⟩ | ⟨_, _, h⟩
      · exact ⟨_, h⟩
      · rcases writeCMD_cases x s with ⟨_, hw⟩ | ⟨_, _, hw⟩ | ⟨_, _, _, hw⟩ <;>
          exact ⟨_, h.trans hw⟩
      all_goals exact ⟨_, h⟩

/-- A run of turns and accesses of the window has an end. -/
theorem Runs.exists_of_isOrdinary {es : List Event} (h : ∀ e ∈ es, isOrdinary e = true) :
    ∀ s, ∃ t, Runs s es t := by
  induction es with
  | nil => exact fun s => ⟨s, Runs.nil s⟩
  | cons e es ih =>
    intro s
    obtain ⟨u, hu⟩ := performEvent_of_isOrdinary (h e (by simp)) s
    obtain ⟨t, ht⟩ := ih (fun e he => h e (by simp [he])) u
    exact ⟨t, Runs.cons hu ht⟩

/-- A run has one end, but for the inputs it is given no say over. -/
theorem Runs.unique {es : List Event} (h : Runs s es t) (h' : Runs s es u) :
    t.setPending [] = u.setPending [] := Host.Outcome.next.inj (h.symm.trans h')

theorem hostRun_of_runs {es : List Event} (h : Runs s es t) :
    hostRun es s = .ok (t.setPending []) := by
  rw [Runs_def] at h
  simp only [hostRun, h]

theorem raisesWithin_succ_of_next (n : Nat) (h : step s = .next t) :
    raisesWithin (n + 1) s = ((errorRaised s).isSome || raisesWithin n t) := by
  simp only [raisesWithin, h]

/-- `raisesWithin` along a run: the first input raises an error, or the rest of the run does. -/
theorem raisesWithin_cons {e : Event} {es : List Event} (h : performEvent e s = .next u) :
    raisesWithin (e :: es).length (s.setPending (e :: es)) =
      ((errorRaised (s.setPending (e :: es))).isSome ||
        raisesWithin es.length (u.setPending es)) :=
  raisesWithin_succ_of_next _
    ((step_of_cons rfl).trans (performEvent_setPending h es))

/-- A command issued while busy is seen as refused. -/
theorem errorRaised_issue_of_busy (i : Instr) (es : List Event) (hb : s.BUSY = true) :
    errorRaised (s.setPending (issue i :: es)) = some .BUSYERR := by
  have hb' : (s.setPending (issue i :: es)).BUSY = true := hb
  simp [errorRaised, issue, State.setPending, hb]

/-- What an input raises does not depend on the inputs after it. -/
theorem errorRaised_cons_congr (e : Event) (es fs : List Event) (s : State) :
    errorRaised (s.setPending (e :: es)) = errorRaised (s.setPending (e :: fs)) := by
  cases e with
  | turn => rfl
  | reset => rfl
  | read p size => cases p <;> rfl
  | write p size x => cases p <;> rfl

theorem raisesWithin_append {es fs : List Event} (h : Runs s es u) :
    raisesWithin (es ++ fs).length (s.setPending (es ++ fs)) =
      (raisesWithin es.length (s.setPending es) || raisesWithin fs.length (u.setPending fs)) := by
  induction es generalizing s with
  | nil =>
    have hs : s.setPending [] = u.setPending [] := Host.Outcome.next.inj h
    have hf : s.setPending fs = u.setPending fs := by
      rw [← setPending_setPending s [] fs, hs, setPending_setPending]
    simp [raisesWithin, hf]
  | cons e es ih =>
    obtain ⟨v, hv, hr⟩ := h.cons_inv
    have he : errorRaised (s.setPending (e :: (es ++ fs))) =
        errorRaised (s.setPending (e :: es)) := errorRaised_cons_congr e _ _ s
    rw [List.cons_append, raisesWithin_cons hv, raisesWithin_cons hv, ih hr, he, Bool.or_assoc]

/-- What the accesses of R82 but `STATUS <- v`, and the turns, are: inputs that clear no flag. -/
def keepsFlags (e : Event) : Bool :=
  match e with
  | .turn => true
  | .read p _ => p.inWindow
  | .write (.window off) _ _ => decide (off.val < 12)
  | .write (.elsewhere _) _ _ => false
  | .reset => false

theorem isOrdinary_of_keepsFlags {e : Event} (h : keepsFlags e = true) : isOrdinary e = true := by
  cases e with
  | turn => rfl
  | reset => cases h
  | read p size => exact h
  | write p size x => cases p with
    | window off => rfl
    | elsewhere a => cases h

theorem flag_raiseErr (F G : ErrFlag) (h : s.flag F = true) : (s.raiseErr G).flag F = true := by
  cases F <;> cases G <;> first | rfl | exact h

theorem flag_commandEffect (i : Instr) (F : ErrFlag) (s : State) :
    (commandEffect i s).flag F = s.flag F := by
  have := commandEffect_flags i s
  cases F <;> simp [State.flag, this]

theorem flag_sequencerStep (F : ErrFlag) (s : State) : s.sequencerStep.flag F = s.flag F := by
  rcases sequencerStep_cases s with ⟨_, e⟩ | ⟨_, _, e⟩ | ⟨_, _, e⟩ <;> rw [e] <;> cases F <;> rfl

/-- An error flag sticks over an input that cannot clear it (R217). -/
theorem flag_of_performEvent {e : Event} (hk : keepsFlags e = true) (F : ErrFlag)
    (h : performEvent e s = .next t) (hF : s.flag F = true) : t.flag F = true := by
  cases e with
  | turn => rw [← Host.Outcome.next.inj h, flag_sequencerStep]; exact hF
  | reset => cases hk
  | read p size =>
    cases p with
    | elsewhere a => cases h
    | window off =>
      rw [← Host.Outcome.next.inj h]
      rcases readWindow_cases off size s with ⟨_, e⟩ | ⟨_, e⟩ <;> rw [e]
      · cases F <;> exact hF
      · have := flag_raiseErr F .ACCERR hF
        cases F <;> exact this
  | write p size x =>
    cases p with
    | elsewhere a => cases h
    | window off =>
      have ho : off.val < 12 := by simpa [keepsFlags] using hk
      change writeWindow off size x s = .next t at h
      rcases writeWindow_cases off size x s with
        ⟨_, e⟩ | ⟨_, _, e⟩ | ⟨_, _, e⟩ | ⟨_, _, e⟩ | ⟨_, h12, e⟩
      · rw [e] at h; rw [← Host.Outcome.next.inj h]; exact flag_raiseErr F _ hF
      · rw [e] at h
        rcases writeCMD_cases x s with ⟨_, e⟩ | ⟨_, _, e⟩ | ⟨_, _, _, e⟩ <;> rw [e] at h <;>
          rw [← Host.Outcome.next.inj h]
        · exact flag_raiseErr F _ hF
        · exact flag_raiseErr F _ hF
        · rw [flag_commandEffect]; exact hF
      · rw [e] at h; rw [← Host.Outcome.next.inj h]; cases F <;> exact hF
      · rw [e] at h; rw [← Host.Outcome.next.inj h]; exact hF
      · subst h12; exact absurd ho (by decide)

/-- An error flag sticks over a run that cannot clear it. -/
theorem flag_of_runs {es : List Event} (hk : ∀ e ∈ es, keepsFlags e = true) (F : ErrFlag)
    (h : Runs s es t) (hF : s.flag F = true) : t.flag F = true := by
  induction es generalizing s with
  | nil =>
    have hs : s.setPending [] = t.setPending [] := Host.Outcome.next.inj h
    have hp : (t.setPending []).flag F = true := hs ▸ (by cases F <;> exact hF)
    cases F <;> exact hp
  | cons e es ih =>
    obtain ⟨u, hu, hr⟩ := h.cons_inv
    exact ih (fun e he => hk e (by simp [he])) hr (flag_of_performEvent (hk e (by simp)) F hu hF)

theorem statusShowsError_statusWord (s : State) :
    statusShowsError (statusWord s) = (s.CMDERR || s.BUSYERR || s.ACCERR) := by
  simp only [statusShowsError, statusWord_getLsbD]
  rfl

theorem digestOfReplies_of_error {r : BusReply} (rs : List BusReply)
    (h : statusShowsError r.value = true) :
    digestOfReplies (r :: rs) = .error .refusedCommand := by
  simp [digestOfReplies, h]

theorem digestOfReplies_of_noError {r : BusReply} (rs : List BusReply)
    (h : statusShowsError r.value = false) :
    digestOfReplies (r :: rs) = (hashOfReplies rs).map hashBytes := by
  simp [digestOfReplies, h]

theorem checkedRun_of_quiet {es : List Event}
    (h : raisesWithin es.length (s.setPending es) = false) : checkedRun es s = hostRun es s := by
  simp [checkedRun, h]

theorem checkedRun_of_refused {es : List Event}
    (h : raisesWithin es.length (s.setPending es) = true) :
    checkedRun es s = .error .refusedCommand := by
  simp [checkedRun, h]

/-- One pass of `WAIT`: after the turns before its read have led to `u`, the loop goes on exactly
where `u` is busy. -/
theorem hostWait_cons {n : Nat} (gaps : List Nat) (h : Runs s (List.replicate n .turn) u) :
    hostWait (n :: gaps) s =
      if u.BUSY then hostWait gaps ((u.pushReply ⟨4, statusWord u⟩).setPending [])
      else .ok ((u.pushReply ⟨4, statusWord u⟩).setPending []) := by
  have hr := hostRun_of_runs (h.append
    (Runs.cons (performEvent_readSTATUS u) (Runs.nil (u.pushReply ⟨4, statusWord u⟩))))
  have hb : (statusWord u).getLsbD 0 = u.BUSY := by rw [statusWord_getLsbD, if_pos rfl]
  rw [hostWait, hr]
  change (if (statusWord u).getLsbD 0 = true then _ else _) = _
  rw [hb]

end Sys2Proof.Machine
end

