-- ==== Sys2Proof/Laws/PerInstr.lean ====
section
/-! SUPPORT. One lemma per command about its syntax and its word (family EncodedFields): the
operand fits the format (R73, R74), the word passes the reserved-bit and class checks of R71 and
R78, the format those rules read from the word is the command's, and the operand stands in the
field R72 gives it. -/

namespace Sys2Proof.Laws.EncodedFields

/-- R72: where a format's operand stands. -/
def operandField (f : Format) (n : Nat) : Word := if f = .AS then putSH n else putIDX n

def Statement (i : Instr) : Prop :=
  i.wellFormed = true ∧ wellFormedWord (encode i) = true ∧ wordFormat (encode i) = i.format ∧
    encode i &&& i.format.operandMask = operandField i.format i.operand

theorem nop : Statement .nop := by unfold Statement; decide
theorem init : Statement .init := by unfold Statement; decide
theorem wrh : ∀ i, Statement (.wrh i) := by unfold Statement; decide
theorem rdh : ∀ i, Statement (.rdh i) := by unfold Statement; decide
theorem wrw : ∀ i, Statement (.wrw i) := by unfold Statement; decide
theorem rdw : ∀ i, Statement (.rdw i) := by unfold Statement; decide
theorem wrb : ∀ j, Statement (.wrb j) := by unfold Statement; decide
theorem comp : Statement .comp := by unfold Statement; decide
theorem rotr : ∀ n, Statement (.rotr n) := by unfold Statement; decide
theorem shr : ∀ n, Statement (.shr n) := by unfold Statement; decide
theorem ch : Statement .ch := by unfold Statement; decide
theorem maj : Statement .maj := by unfold Statement; decide
theorem bsig0 : Statement .bsig0 := by unfold Statement; decide
theorem bsig1 : Statement .bsig1 := by unfold Statement; decide
theorem ssig0 : Statement .ssig0 := by unfold Statement; decide
theorem ssig1 : Statement .ssig1 := by unfold Statement; decide
theorem add : Statement .add := by unfold Statement; decide
theorem add3 : Statement .add3 := by unfold Statement; decide
theorem wry : Statement .wry := by unfold Statement; decide
theorem wrz : Statement .wrz := by unfold Statement; decide
theorem rdk : ∀ i, Statement (.rdk i) := by unfold Statement; decide
theorem rdiv : ∀ i, Statement (.rdiv i) := by unfold Statement; decide

end Sys2Proof.Laws.EncodedFields
end

