-- ==== Sys2Proof/Tests/Slice0.lean ====
section
/-! SUPPORT. Tests: ill-formed terms the checks refuse; words written out from R72 and R76; the
derived vectors of 95_test_vectors.md, one step each; and, for each statement with hypotheses, a
concrete state and operands that meet them. -/

namespace Sys2Proof.Tests

open Sys2Proof.Machine

/-- Reset with these inputs to come. -/
def withInputs (es : List Event) : State := { State.reset with pending := es }

/-- Reset with these ALU operands. -/
def withOperands (x y z : Word) : State := { State.reset with DATA := x, OPY := y, OPZ := z }

/-- A running compression, `COMP` just accepted (K1 of 95_test_vectors.md), with these inputs. -/
def running (es : List Event) : State := { State.reset.acceptComp with pending := es }

/-- A compression of which only the update step is left. -/
def lastTurn (es : List Event) : State := { running es with t := 64 }

/-- The state after the next step writes `w` to `CMD`. -/
def afterWord (s : State) (w : Nat) : Option State := nextState? (step (s.withFetchWord 32 w))

/-- The state after the next step performs `e`. -/
def afterEvent (s : State) (e : Event) : Option State := nextState? (performEvent e s)

/-! ### WellFormed smoke: one ill-formed term a check -/

theorem test_operand_I3_refuses_8 : Format.I3.operandOk 8 = false := by decide
theorem test_operand_I4_refuses_16 : Format.I4.operandOk 16 = false := by decide
theorem test_operand_I6_refuses_64 : Format.I6.operandOk 64 = false := by decide
theorem test_operand_AS_refuses_32 : Format.AS.operandOk 32 = false := by decide
theorem test_operand_N_refuses_1 : Format.N.operandOk 1 = false ∧ Format.A.operandOk 1 = false := by
  decide
/-- Reserved class (F3). -/
theorem test_opcOk_refuses : opcOk 0xE0000000 = false ∧ wellFormedWord 0xE0000000 = false := by
  decide
/-- Reserved function (F4). -/
theorem test_fnOk_refuses : fnOk 0x8A000000 = false ∧ wellFormedWord 0x8A000000 = false := by
  decide
/-- Reserved bits (F5 to F10). -/
theorem test_reservedOk_refuses :
    reservedOk 0x82010000 = false ∧ reservedOk 0x30000008 = false ∧
    reservedOk 0x40000010 = false ∧ reservedOk 0x00000001 = false ∧
    reservedOk 0x80200000 = false ∧ reservedOk 0x81000040 = false := by decide
theorem test_aligned_refuses : alignedOk 0x6 = false ∧ admitted 0x6 4 = false := by decide
theorem test_size_refuses : sizeOk 2 = false ∧ admitted 0x4 2 = false := by decide
theorem test_inWindow_refuses : (Place.elsewhere 0).inWindow = false := by decide

/-! ### Decoding: words written bit by bit from R72 and R76 (`OPC`, `FN`, 3 zeros, `SH`, 10 zeros,
`IDX`) -/

theorem test_decode_nop :
    decode (0b0000#4 ++ 0b0000#4 ++ 0#3 ++ 0#5 ++ 0#10 ++ 0#6) = some .nop := by decide
theorem test_decode_init :
    decode (0b0001#4 ++ 0b0000#4 ++ 0#3 ++ 0#5 ++ 0#10 ++ 0#6) = some .init := by decide
theorem test_decode_wrh :
    decode (0b0010#4 ++ 0b0000#4 ++ 0#3 ++ 0#5 ++ 0#10 ++ 0b000110#6) = some (.wrh 6) := by decide
theorem test_decode_rdh :
    decode (0b0011#4 ++ 0b0000#4 ++ 0#3 ++ 0#5 ++ 0#10 ++ 0b000011#6) = some (.rdh 3) := by decide
theorem test_decode_wrw :
    decode (0b0100#4 ++ 0b0000#4 ++ 0#3 ++ 0#5 ++ 0#10 ++ 0b001101#6) = some (.wrw 13) := by decide
theorem test_decode_rdw :
    decode (0b0101#4 ++ 0b0000#4 ++ 0#3 ++ 0#5 ++ 0#10 ++ 0b001001#6) = some (.rdw 9) := by decide
theorem test_decode_wrb :
    decode (0b0110#4 ++ 0b0000#4 ++ 0#3 ++ 0#5 ++ 0#10 ++ 0b101101#6) = some (.wrb 45) := by decide
theorem test_decode_comp :
    decode (0b0111#4 ++ 0b0000#4 ++ 0#3 ++ 0#5 ++ 0#10 ++ 0#6) = some .comp := by decide
theorem test_decode_rotr :
    decode (0b1000#4 ++ 0b0000#4 ++ 0#3 ++ 0b10110#5 ++ 0#10 ++ 0#6) = some (.rotr 22) := by decide
theorem test_decode_shr :
    decode (0b1000#4 ++ 0b0001#4 ++ 0#3 ++ 0b01010#5 ++ 0#10 ++ 0#6) = some (.shr 10) := by decide
theorem test_decode_ch :
    decode (0b1000#4 ++ 0b0010#4 ++ 0#3 ++ 0#5 ++ 0#10 ++ 0#6) = some .ch := by decide
theorem test_decode_maj :
    decode (0b1000#4 ++ 0b0011#4 ++ 0#3 ++ 0#5 ++ 0#10 ++ 0#6) = some .maj := by decide
theorem test_decode_bsig0 :
    decode (0b1000#4 ++ 0b0100#4 ++ 0#3 ++ 0#5 ++ 0#10 ++ 0#6) = some .bsig0 := by decide
theorem test_decode_bsig1 :
    decode (0b1000#4 ++ 0b0101#4 ++ 0#3 ++ 0#5 ++ 0#10 ++ 0#6) = some .bsig1 := by decide
theorem test_decode_ssig0 :
    decode (0b1000#4 ++ 0b0110#4 ++ 0#3 ++ 0#5 ++ 0#10 ++ 0#6) = some .ssig0 := by decide
theorem test_decode_ssig1 :
    decode (0b1000#4 ++ 0b0111#4 ++ 0#3 ++ 0#5 ++ 0#10 ++ 0#6) = some .ssig1 := by decide
theorem test_decode_add :
    decode (0b1000#4 ++ 0b1000#4 ++ 0#3 ++ 0#5 ++ 0#10 ++ 0#6) = some .add := by decide
theorem test_decode_add3 :
    decode (0b1000#4 ++ 0b1001#4 ++ 0#3 ++ 0#5 ++ 0#10 ++ 0#6) = some .add3 := by decide
theorem test_decode_wry :
    decode (0b1001#4 ++ 0b0000#4 ++ 0#3 ++ 0#5 ++ 0#10 ++ 0#6) = some .wry := by decide
theorem test_decode_wrz :
    decode (0b1010#4 ++ 0b0000#4 ++ 0#3 ++ 0#5 ++ 0#10 ++ 0#6) = some .wrz := by decide
theorem test_decode_rdk :
    decode (0b1011#4 ++ 0b0000#4 ++ 0#3 ++ 0#5 ++ 0#10 ++ 0b110001#6) = some (.rdk 49) := by decide
theorem test_decode_rdiv :
    decode (0b1100#4 ++ 0b0000#4 ++ 0#3 ++ 0#5 ++ 0#10 ++ 0b000101#6) = some (.rdiv 5) := by decide
theorem test_decodeTableWord :
    decodeTableWord 32 0x801F0000 = some (.rotr 31) ∧ decodeTableWord 32 0x30000008 = none := by
  decide

/-! ### Results: 95_test_vectors.md 2.1 (ALU) -/

theorem test_rotr_4 :
    (afterWord (withOperands 0x12345678 0 0) 0x80040000).map (·.RESULT) = some 0x81234567 := by
  decide
theorem test_rotr_0 :
    (afterWord (withOperands 0x12345678 0 0) 0x80000000).map (·.RESULT) = some 0x12345678 := by
  decide
theorem test_shr_31_is_logical :
    (afterWord (withOperands 0xFFFFFFFF 0 0) 0x811F0000).map (·.RESULT) = some 0x00000001 := by
  decide
theorem test_shr_10 :
    (afterWord (withOperands 0xFFFFFFFF 0 0) 0x810A0000).map (·.RESULT) = some 0x003FFFFF := by
  decide
theorem test_ch : (afterWord (withOperands 0x510E527F 0x9B05688C 0x1F83D9AB) 0x82000000).map
    (·.RESULT) = some 0x1F85C98C := by decide
theorem test_maj : (afterWord (withOperands 0x6A09E667 0xBB67AE85 0x3C6EF372) 0x83000000).map
    (·.RESULT) = some 0x3A6FE667 := by decide
theorem test_bsig0 :
    (afterWord (withOperands 0x12345678 0 0) 0x84000000).map (·.RESULT) = some 0x66146474 := by
  decide
theorem test_bsig1 :
    (afterWord (withOperands 0x12345678 0 0) 0x85000000).map (·.RESULT) = some 0x3561ABDA := by
  decide
theorem test_ssig0 :
    (afterWord (withOperands 0x12345678 0 0) 0x86000000).map (·.RESULT) = some 0xE7FCE6EE := by
  decide
theorem test_ssig1 :
    (afterWord (withOperands 0x12345678 0 0) 0x87000000).map (·.RESULT) = some 0xA1F78649 := by
  decide
theorem test_add : (afterWord (withOperands 0x12345678 0x9ABCDEF0 0xFFFFFFFF) 0x88000000).map
    (·.RESULT) = some 0xACF13568 := by decide
theorem test_add3 : (afterWord (withOperands 0x6A09E667 0xBB67AE85 0x3C6EF372) 0x89000000).map
    (·.RESULT) = some 0x61E0885E := by decide

/-! ### Results: 95_test_vectors.md 2.2 and 2.3 (ROM, transfers) -/

theorem test_rdk_31 : (afterWord State.reset 0xB000001F).map (·.RESULT) = some 0x14292967 := by
  decide
theorem test_rdk_62 : (afterWord State.reset 0xB000003E).map (·.RESULT) = some 0xBEF9A3F7 := by
  decide
theorem test_rdiv_7_ignores_H :
    (afterWord { State.reset with H := Vector.replicate 8 0 } 0xC0000007).map (·.RESULT) =
      some 0x5BE0CD19 := by decide
/-- X9. -/
theorem test_nop : afterWord State.reset 0x00000000 = some State.reset := by decide
/-- X5: `ROUND` stays 64. -/
theorem test_init : (afterWord { State.reset with H := Vector.replicate 8 0, t := 64, DONE := true }
    0x10000000).map (fun s => (s.H[7], statusWord s)) = some (0x5BE0CD19, 0x00004000) := by decide
/-- X4. -/
theorem test_wrh_5 : (afterWord (withOperands 0xDEADBEEF 0 0) 0x20000005).map
    (fun s => (s.H[5], s.H[4])) = some (0xDEADBEEF, 0x510E527F) := by decide
theorem test_rdh_0 : (afterWord State.reset 0x30000000).map (·.RESULT) = some 0x6A09E667 := by
  decide
/-- X2. -/
theorem test_wrw_0 : (afterWord (withOperands 0x61626380 0 0) 0x40000000).map
    (fun s => (s.M[0], s.M[1], s.M[2], s.M[3])) = some (0x61, 0x62, 0x63, 0x80) := by decide
/-- X3: the mixture of a word and a byte. -/
theorem test_rdw_0 : (afterWord { State.reset with
    M := (((State.reset.M.set 0 0x61).set 2 0x63).set 3 0x80) } 0x50000000).map (·.RESULT) =
      some 0x61006380 := by decide
/-- X3: `DATA[31:8]` is ignored. -/
theorem test_wrb_1 : (afterWord { withOperands 0xFFFFFF00 0 0 with
    M := Vector.replicate 64 0x62 } 0x60000001).map (fun s => (s.M[0], s.M[1], s.M[2])) =
      some (0x62, 0x00, 0x62) := by decide
theorem test_wry : (afterWord (withOperands 0xAAAAAAAA 0 0) 0x90000000).map
    (fun s => (s.OPY, s.OPZ)) = some (0xAAAAAAAA, 0) := by decide
theorem test_wrz : (afterWord (withOperands 0x55555555 0 0) 0xA0000000).map
    (fun s => (s.OPY, s.OPZ)) = some (0, 0x55555555) := by decide
/-- X8. -/
theorem test_write_RESULT_ignored :
    afterEvent State.reset (.write (.window 0x8) 4 0x12345678) = some State.reset := by decide

/-! ### Results: 95_test_vectors.md 2.4 and 2.5 (compression, errors) -/

/-- K1. -/
theorem test_comp : (afterWord State.reset 0x70000000).map
    (fun s => (statusWord s, s.v.a, s.v.h, s.W[15])) =
      some (0x00000001, 0x6A09E667, 0x5BE0CD19, 0) := by decide
/-- K6, row `t = 0`: the first round of the padded `"abc"` block. -/
theorem test_round_0 : (afterEvent { running [] with W := (running []).W.set 0 0x61626380 }
    .turn).map (fun s => (s.v.a, s.v.b, s.v.e, s.v.h, statusWord s)) =
      some (0x5d6aebcd, 0x6a09e667, 0xfa2a4622, 0x1f83d9ab, 0x00000101) := by decide
/-- K6, row `t = 17`: `W[17] = σ1(W[15]) + W[10] + σ0(W[2]) + W[1]` with `W[15] = 0x18`. -/
theorem test_schedule_17 : (afterEvent { running [] with
    t := 17, W := ((running []).W.set 0 0x61626380).set 15 0x18 } .turn).map (fun s => s.W[17]) =
      some 0x000f0000 := by decide
/-- K6: the update step adds the working variables of row `t = 63` to `IV`. -/
theorem test_update : (afterEvent { running [] with
    t := 64
    v := ⟨0x506e3058, 0xd39a2165, 0x04d24d6c, 0xb85e2ce9, 0x5ef50f24, 0xfb121210, 0x948d25b6,
      0x961f4894⟩ } .turn).map (fun s => (s.H[0], s.H[3], s.H[7], statusWord s)) =
      some (0xba7816bf, 0x5dae2223, 0xf20015ad, 0x00004002) := by decide
/-- The padded `"abc"` block of K6. -/
def abcBlock : Vector Byte 64 :=
  ((((Vector.replicate 64 0).set 0 0x61).set 1 0x62).set 2 0x63 |>.set 3 0x80).set 63 0x18
/-- S2, K6: the source's known-answer vector `digest("abc")`, as a value of the pure function. -/
theorem test_compress1_abc : compress1 Config.IV abcBlock = #v[0xba7816bf, 0x8f01cfea, 0x414140de,
    0x5dae2223, 0xb00361a3, 0x96177a9c, 0xb410ff61, 0xf20015ad] := by decide +kernel
/-- F1. -/
theorem test_accerr_write :
    (afterEvent State.reset (.write (.window 0x4) 2 0x1234)).map (fun s => (statusWord s, s.DATA)) =
      some (0x00000010, 0) := by decide
/-- F2. -/
theorem test_accerr_read : (afterEvent State.reset (.read (.window 0x6) 4)).map
    (fun s => (statusWord s, s.replies)) = some (0x00000010, [⟨4, 0⟩]) := by decide
/-- F11: a word written while busy is never decoded. -/
theorem test_busy_illegal_word :
    (afterWord (running []) 0xD0000000).map statusWord = some 0x00000009 := by decide
/-- F12: `ACCERR` is checked first. -/
theorem test_busy_misaligned : (afterEvent (running []) (.write (.window 0x1) 4 0)).map statusWord =
    some 0x00000011 := by decide
/-- F9: `ROTR` with bit 21 set. -/
theorem test_cmderr : (afterWord State.reset 0x80200000).map statusWord = some 0x00000004 := by
  decide
/-- F14. -/
theorem test_status_write : (afterEvent { State.reset with t := 64, DONE := true, CMDERR := true }
    (writeSTATUS 0xFFFFFFFF)).map statusWord = some 0x00004002 := by decide
/-- F15. -/
theorem test_status_write_one : (afterEvent { State.reset with CMDERR := true, BUSYERR := true }
    (writeSTATUS 0x08)).map statusWord = some 0x00000004 := by decide
/-- R231: reset abandons a compression. -/
theorem test_reset_event : afterEvent (running []) .reset = some State.reset := by decide
/-- 2.7: the padded lengths at the one-block boundary. -/
theorem test_pad_boundary : (pad (List.replicate 55 0)).length = 64 ∧
    (pad (List.replicate 56 0)).length = 128 := by decide +kernel
/-- R197: a length that is no multiple of 64; a 56-byte message padded to one block (R192: two). -/
theorem test_split_defects :
    splitBlocks 3 (List.replicate 63 0) = .error .paddedLength ∧
    splitBlocks 56 (List.replicate 64 0) = .error .blockCount := ⟨rfl, rfl⟩
/-- R195: P6's `STATUS` with `BUSYERR` gives no digest; a clean one gives `h_0` first, big-endian. -/
theorem test_digestOfReplies :
    digestOfReplies (⟨4, 0x0000400A⟩ :: List.replicate 8 ⟨4, 1⟩) = .error .refusedCommand ∧
    digestOfReplies (⟨4, 0x00004002⟩ :: (List.replicate 7 ⟨4, 0⟩ ++ [⟨4, 0x61626380⟩])) =
      .ok ([0x61, 0x62, 0x63, 0x80] ++ List.replicate 28 0) := ⟨rfl, rfl⟩
/-- R83: `WAIT` reads again while bit 0 is 1, no further than the read where it is 0, and has not
ended where the gaps end first (95_test_vectors.md P2: the last read shows `0x00004002`). -/
theorem test_wait :
    (hostWait [0, 1, 7] (lastTurn [])).map (fun t => t.replies) =
      .ok [⟨4, 0x00004002⟩, ⟨4, 0x00004001⟩] ∧
    (hostWait [0, 0] (lastTurn [])).map (fun t => t.replies) = .error .waiting ∧
    (hostWait [] State.reset).map (fun t => t.replies) = .error .waiting := ⟨rfl, rfl, rfl⟩

/-! ### Witnesses: for each statement with hypotheses, states and operands that meet them -/

theorem witness_idle_state : State.reset.BUSY = false := rfl
theorem witness_busy_state : (running []).BUSY = true := rfl
theorem witness_DecodedWordIsItsEncoding : decode 0x6000003F = some (.wrb 63) := by decide
theorem witness_AtMostOneRowMatches : ∃ r, opcodeTable[21]? = some r ∧ r.selects 0xC0000007 = true :=
  ⟨_, rfl, by decide⟩
theorem witness_IllegalWords : State.reset.BUSY = false ∧ decode 0x40000010 = none := by decide
theorem witness_StepRunsDecodedCommand :
    (withInputs [.write (.window 0x0) 4 0x81030000]).pending =
      .write (.window 0x0) 4 0x81030000 :: [] ∧
    (withInputs [.write (.window 0x0) 4 0x81030000]).BUSY = false ∧
    decode 0x81030000 = some (.shr 3) := by decide
/-- The four ways a write passes or fails the checks, and the two for a read. -/
theorem witness_AccessCheckingOrder :
    errorRaised (running [.write (.window 0x1) 4 0]) = some .ACCERR ∧
    errorRaised (running [.write (.window 0x0) 4 0xD0000000]) = some .BUSYERR ∧
    errorRaised (withInputs [.write (.window 0x0) 4 0xD0000000]) = some .CMDERR ∧
    errorRaised (withInputs [.write (.window 0xC) 4 0]) = none ∧
    errorRaised (withInputs [.read (.window 0xC) 1]) = some .ACCERR ∧
    errorRaised (withInputs [.read (.window 0x0) 4]) = none := by decide
theorem witness_AdmittedAccessEffects :
    (withInputs [.read (.window 0x0) 4]).pending = .read (.window 0x0) 4 :: [] ∧
    (running [.write (.window 0x0) 4 0]).BUSY = true ∧
    (withInputs [.write (.window 0x0) 4 0x1]).BUSY = false ∧ decode 0x1 = none ∧
    decode 0x0 = some .nop ∧
    (withInputs [readDATA]).pending = .read (.window 0x4) 4 :: [] ∧
    (withInputs [writeDATA 1]).pending = .write (.window 0x4) 4 1 :: [] ∧
    (withInputs [readRESULT]).pending = .read (.window 0x8) 4 :: [] ∧
    (withInputs [.write (.window 0x8) 4 1]).pending = .write (.window 0x8) 4 1 :: [] ∧
    (withInputs [readSTATUS]).pending = .read (.window 0xC) 4 :: [] ∧
    (withInputs [writeSTATUS 1]).pending = .write (.window 0xC) 4 1 :: [] := by decide
theorem witness_StatusWriteClearsOnes :
    (running [writeSTATUS 0x1C]).pending = .write (.window 0xC) 4 0x1C :: [] := rfl
theorem witness_WrongAccessOnlySetsACCERR :
    ((8 : Nat) ≠ 4 ∨ (0x8 : Fin 16).val % 4 ≠ 0) ∧ ((4 : Nat) ≠ 4 ∨ (0xF : Fin 16).val % 4 ≠ 0) ∧
    (running [.write (.window 0x8) 8 0]).pending = .write (.window 0x8) 8 0 :: [] ∧
    (running [.read (.window 0xF) 4]).pending = .read (.window 0xF) 4 :: [] := by decide
theorem witness_BusyRefusesEveryCommand :
    (running [.write (.window 0x0) 4 0]).pending = .write (.window 0x0) 4 0 :: [] ∧
    (running [writeDATA 1]).pending = .write (.window 0x4) 4 1 :: [] ∧
    (running [writeSTATUS 1]).pending = .write (.window 0xC) 4 1 :: [] ∧
    (running [readSTATUS]).pending = .read (.window 0xC) 4 :: [] ∧
    (running []).BUSY = true ∧ (0xC : Fin 16).val % 4 = 0 := by decide
/-- A flag raised, one kept, and one cleared. -/
theorem witness_ErrorFlagLifeCycle :
    (∃ t, step (running [.write (.window 0x0) 4 0]) = .next t ∧ t.flag .BUSYERR = true) ∧
    (∃ t, step { running [.turn] with BUSYERR := true } = .next t ∧ t.flag .BUSYERR = true) ∧
    ∃ t, step { running [writeSTATUS 8] with BUSYERR := true } = .next t ∧
      t.flag .BUSYERR = false := ⟨⟨_, rfl, rfl⟩, ⟨_, rfl, rfl⟩, ⟨_, rfl, rfl⟩⟩
theorem witness_StepStopsOnlyOutsideWindow :
    step (withInputs [.read (.elsewhere 5) 4]) = .fault (.outsideWindow 5) ∧
    step (withInputs [.write (.elsewhere 5) 4 0]) = .fault (.outsideWindow 5) := ⟨rfl, rfl⟩
/-- The first and last byte of the window, and the bytes on either side of it. -/
theorem witness_WindowAddresses :
    placeOf (Config.BASE + 0) = .window 0 ∧ placeOf (Config.BASE + 15) = .window 15 ∧
    placeOf (Config.BASE + 16) = .elsewhere (Config.BASE + 16) := by
  simp [placeOf]
theorem witness_ReadsAreIdempotent : (0xC : Fin 16).val % 4 = 0 := rfl
theorem witness_DataAndStatusWritesAreIdempotent :
    Runs State.reset [writeDATA 7] { State.reset with DATA := 7 } ∧
    Runs { State.reset with CMDERR := true } [writeSTATUS 4] State.reset := ⟨rfl, rfl⟩
theorem witness_shift_amount_bounds : (31 : Fin 32).val < 32 ∧ (1 ≤ 31 ∧ 31 ≤ 31) := by decide
theorem witness_AluDependsOnOperandsOnly :
    Instr.rotr 31 ∈ [Instr.rotr 31, .shr 31, .ch, .maj, .bsig0, .bsig1, .ssig0, .ssig1, .add,
      .add3] ∧ State.reset.BUSY = false := by decide
theorem witness_WordFunctionLaws : (0xFFFFFFFF : Word) ≠ 0 := by decide
/-- Each idle command completes: its outcome is a next state. -/
theorem witness_commands_complete :
    ∀ i ∈ [Instr.nop, .init, .wrh 7, .rdh 7, .wrw 15, .rdw 15, .wrb 63, .comp, .rotr 31, .shr 31,
      .ch, .maj, .bsig0, .bsig1, .ssig0, .ssig1, .add, .add3, .wry, .wrz, .rdk 63, .rdiv 7],
      ∃ t, exec i State.reset = .next t := fun i _ => ⟨_, exec_of_idle i rfl⟩
theorem witness_WrwStoresBigEndian : (63 : Fin 64).val / 4 ≠ (0 : Fin 16).val := by decide
theorem witness_CompAcceptance : State.reset.BUSY = false ∧ 16 ≤ (63 : Fin 64).val := by decide
/-- Idle, a round below 16, a round from 16 on, and the update. -/
theorem witness_SequencerSteps :
    (withInputs [.turn]).BUSY = false ∧
    (running [.turn]).BUSY = true ∧ (running [.turn]).t.val = (0 : Fin 64).val ∧
    ({ running [.turn] with t := 63 } : State).t.val = (63 : Fin 64).val ∧
    ({ running [.turn] with t := 64 } : State).t.val = 64 := by decide
theorem witness_ScheduleRecurrence : 16 ≤ (16 : Fin 64).val ∧ 16 ≤ (63 : Fin 64).val := by decide
theorem witness_StepKeepsControlInvariant :
    ControlInv (running [.turn]) ∧ ∃ t, step (running [.turn]) = .next t := ⟨by decide, _, rfl⟩
theorem witness_StepKeepsCompressionInvariant :
    CompressionInv (withInputs [issue .comp]) ∧
      ∃ t, step (withInputs [issue .comp]) = .next t ∧ t.BUSY = true :=
  ⟨fun h => (by cases h), _, rfl, rfl⟩
/-- A host that misuses the busy engine between the turns. -/
theorem witness_CompressionIndependentOfInterleaving :
    let es := writeDATA 1 :: issue .nop :: .read (.window 0x3) 4 :: List.replicate 64 Event.turn
    (∀ e ∈ es, isOrdinary e = true) ∧ turns es = 64 := by decide
theorem witness_BusyUntilSixtyFifthTurn :
    (∀ e ∈ [readSTATUS, .turn, writeSTATUS 0x1C], isOrdinary e = true) ∧
      turns [readSTATUS, .turn, writeSTATUS 0x1C] ≤ 64 := by decide
theorem witness_BlocksCompressInOrder :
    ∀ b ∈ [(abcBlock, [0, 64, 1]), (abcBlock, [70])], 65 ≤ b.2.sum := by
  simp
theorem witness_SequencerFinishesAlone :
    (running []).pending = [] ∧ (running []).BUSY = true := by decide
theorem witness_StepCounts : State.reset.BUSY = false ∧ (∃ t, exec .comp State.reset = .next t) ∧
    ∃ t, exec (.rdk 63) State.reset = .next t := ⟨rfl, ⟨_, rfl⟩, ⟨_, rfl⟩⟩
theorem witness_HashStateChangers : ∃ t, step { running [.turn] with
    t := 64, v := ⟨1, 0, 0, 0, 0, 0, 0, 0⟩ } = .next t ∧ t.H ≠ State.reset.H := ⟨_, rfl, by decide⟩
theorem witness_BlockBufferChangers : ∃ t, step { withInputs [issue (.wrb 0)] with DATA := 1 } =
    .next t ∧ t.M ≠ State.reset.M := ⟨_, rfl, by decide⟩
theorem witness_ResultChangers : ∃ t, step (withInputs [issue (.rdk 0)]) = .next t ∧
    t.RESULT ≠ State.reset.RESULT := ⟨_, rfl, by decide⟩
theorem witness_OperandRegisterChangers :
    (∃ t, step (withInputs [writeDATA 1]) = .next t ∧ t.DATA ≠ State.reset.DATA) ∧
    (∃ t, step { withInputs [issue .wry] with DATA := 1 } = .next t ∧ t.OPY ≠ State.reset.OPY) ∧
    ∃ t, step { withInputs [issue .wrz] with DATA := 1 } = .next t ∧ t.OPZ ≠ State.reset.OPZ :=
  ⟨⟨_, rfl, by decide⟩, ⟨_, rfl, by decide⟩, ⟨_, rfl, by decide⟩⟩
theorem witness_SequencerStateChangers : ∃ t, step (running [.turn]) = .next t ∧
    t.t ≠ (running [.turn]).t := ⟨_, rfl, by decide⟩
theorem witness_BusyAndDoneLifeCycle :
    (∃ t, step (withInputs [issue .comp]) = .next t ∧ t.BUSY = true) ∧
    (∃ t, step { running [.turn] with t := 64 } = .next t ∧ t.BUSY = false ∧ t.DONE = true) ∧
    ∃ t, step { withInputs [issue .init] with DONE := true } = .next t ∧ t.DONE = false :=
  ⟨⟨_, rfl, rfl⟩, ⟨_, rfl, rfl, rfl⟩, ⟨_, rfl, rfl⟩⟩
theorem witness_ControlIndependentOfData :
    ControlAlike (withInputs [writeDATA 1, issue (.rotr 3)])
      { withInputs [writeDATA 2, issue (.rotr 9)] with OPY := 5 } ∧
    (∃ t, step (withInputs [writeDATA 1, issue (.rotr 3)]) = .next t) ∧
    ∃ f, step (withInputs [.read (.elsewhere 0) 4]) = .fault f :=
  ⟨⟨rfl, rfl, rfl, rfl, rfl, rfl, rfl, .cons (.inr (.inl ⟨1, 2, rfl, rfl⟩))
    (.cons (.inr (.inr ⟨.rotr 3, .rotr 9, rfl, rfl, rfl⟩)) .nil)⟩, ⟨_, rfl⟩, ⟨_, rfl⟩⟩
theorem witness_ResetAbandonsEverything :
    (running [.reset, .turn]).pending = .reset :: [.turn] ∧ (running [.reset, .turn]).BUSY = true :=
  ⟨rfl, rfl⟩
theorem witness_PaddingProperties : (List.replicate 55 (0 : Byte)).length ≤ 55 ∧
    56 ≤ (List.replicate 119 (0 : Byte)).length ∧ (List.replicate 119 (0 : Byte)).length ≤ 119 := by
  decide
theorem witness_PseudoInstructions (x y z : Word) :
    State.reset.BUSY = false ∧ (Instr.shr 31, shr x (31 : Fin 32).val) ∈
      [(Instr.rotr 31, rotr x (31 : Fin 32).val), (.shr 31, shr x (31 : Fin 32).val),
        (.ch, ch x y z)] := ⟨rfl, by simp⟩
/-- The three clauses: 63 bytes, 64 bytes for a 56-byte message, 64 bytes for a 55-byte one. -/
theorem witness_SplittingChecksThePadding :
    (List.replicate 63 (0 : Byte)).length % 64 ≠ 0 ∧
    (List.replicate 64 (0 : Byte)).length % 64 = 0 ∧
    (List.replicate 64 (0 : Byte)).length / 64 ≠ (56 + 8) / 64 + 1 ∧
    (List.replicate 64 (0 : Byte)).length = 64 * ((55 + 8) / 64 + 1) := by decide
theorem witness_DigestProgramComputesDigest :
    State.reset.BUSY = false ∧ NoErrors State.reset ∧
    ∀ j, j < (([] : List Byte).length + 8) / 64 + 1 → 65 ≤ ((fun k => [k, 65]) j : List Nat).sum :=
  ⟨rfl, by decide, fun j _ => by simp⟩
theorem witness_RefusedCommandIsAHostDefect :
    (running []).BUSY = true ∧ ¬NoErrors (State.reset.raiseErr .ACCERR) ∧
    (∀ j, j < (3 + 8) / 64 + 1 → 65 ≤ ((fun _ => [65]) j : List Nat).sum) ∧
    State.reset.BUSY = false ∧ (0 < (3 + 8) / 64 + 1 ∧ ([64] : List Nat).sum < 65) ∧
    ∃ b ∈ [(abcBlock, [0, 64])], b.2.sum < 65 := by
  refine ⟨rfl, by decide, fun _ _ => by simp, rfl, by decide, _, List.mem_singleton.2 rfl, by decide⟩
/-- A wait that reads twice and ends, one on an idle engine, and both sides of the bound. -/
theorem witness_WaitLoopsWhileBusy :
    (∃ t, hostWait [0, 1] (lastTurn []) = .ok t) ∧ (lastTurn []).BUSY = true ∧
    65 - (lastTurn []).t.val ≤ [0, 1].sum ∧ [0].sum < 65 - (lastTurn []).t.val ∧
    State.reset.BUSY = false := ⟨⟨_, rfl⟩, by decide⟩

end Sys2Proof.Tests
end

section
/-! The next input read off `pending`, in the terms of Safety.lean: whether it is the sequencer's
turn, a reset or the `CMD` write of a command. -/

namespace Sys2Proof.Machine

variable {s : State} {e : Event} {rest : List Event}

theorem sequencerMoves_of_nil (h : s.pending = []) : sequencerMoves s ↔ s.BUSY = true := by
  simp [sequencerMoves, h]

theorem sequencerMoves_of_cons (h : s.pending = e :: rest) :
    sequencerMoves s ↔ s.BUSY = true ∧ e = .turn := by
  simp [sequencerMoves, h]

theorem not_resetsNext_of_nil (h : s.pending = []) : ¬resetsNext s := by
  simp [resetsNext, h]

theorem resetsNext_of_cons (h : s.pending = e :: rest) : resetsNext s ↔ e = .reset := by
  simp [resetsNext, h]

theorem not_performs_of_nil (i : Instr) (h : s.pending = []) : ¬performs s i := by
  simp [performs, h]

theorem performs_of_cons (i : Instr) (h : s.pending = e :: rest) :
    performs s i ↔ ∃ w, e = .write (.window 0) 4 w ∧ s.BUSY = false ∧ decode w = some i := by
  simp [performs, h]

/-- Only the `CMD` write of a legal word to an idle engine performs a command, and only its own. -/
theorem performs_of_decode {w : Word} {i : Instr} (j : Instr)
    (h : s.pending = .write (.window 0) 4 w :: rest) (hb : s.BUSY = false)
    (hd : decode w = some i) : performs s j ↔ i = j := by
  simp [performs_of_cons j h, hb, hd]

end Sys2Proof.Machine
end

section
/-! What an update of the state does to an error flag, and which inputs raise (R215) and which
clear one (R25, R217, R230). -/

namespace Sys2Proof.Machine

variable {s : State} {e : Event} {rest : List Event}

@[simp] theorem raiseErr_flag (s : State) (F G : ErrFlag) :
    (s.raiseErr G).flag F = (s.flag F || decide (G = F)) := by
  cases F <;> simp [State.flag]

@[simp] theorem clearErr_flag (s : State) (x : Word) (F : ErrFlag) :
    (s.clearErr x).flag F = (s.flag F && !x.getLsbD (causeCode F)) := by
  cases F <;> rfl

@[simp] theorem resetEngine_flag (s : State) (F : ErrFlag) : s.resetEngine.flag F = false := by
  cases F <;> rfl

@[simp] theorem setPending_flag (s : State) (es : List Event) (F : ErrFlag) :
    (s.setPending es).flag F = s.flag F := by
  cases F <;> rfl

@[simp] theorem setDATA_flag (s : State) (x : Word) (F : ErrFlag) :
    (s.setDATA x).flag F = s.flag F := by
  cases F <;> rfl

@[simp] theorem pushReply_flag (s : State) (r : BusReply) (F : ErrFlag) :
    (s.pushReply r).flag F = s.flag F := by
  cases F <;> rfl

theorem readWindow_flag (off : Fin 16) (size : Nat) (s : State) (F : ErrFlag) :
    (readWindow off size s).flag F =
      (s.flag F || (!admitted off size && decide (ErrFlag.ACCERR = F))) := by
  rcases readWindow_cases off size s with ⟨ha, hr⟩ | ⟨ha, hr⟩ <;> simp [ha, hr]

theorem errorRaised_of_nil (h : s.pending = []) : errorRaised s = none := by
  simp [errorRaised, h]

theorem errorRaised_of_turn (h : s.pending = .turn :: rest) : errorRaised s = none := by
  simp [errorRaised, h]

theorem errorRaised_of_reset (h : s.pending = .reset :: rest) : errorRaised s = none := by
  simp [errorRaised, h]

theorem errorRaised_of_read {off : Fin 16} {size : Nat}
    (h : s.pending = .read (.window off) size :: rest) :
    errorRaised s = if admitted off size then none else some .ACCERR := by
  by_cases ha : size = 4 ∧ off.val % 4 = 0
  · simp [errorRaised, h, admitted_iff, ha]
  · have hn : size ≠ 4 ∨ off.val % 4 ≠ 0 := by omega
    simp [errorRaised, h, admitted_iff, ha, hn]

/-- A write that fails the check of R51 is no write of a register. -/
theorem write_ne_of_not_admitted {off off' : Fin 16} {size : Nat} {x y : Word}
    (ha : admitted off size = false) (h4 : off'.val % 4 = 0) :
    Event.write (.window off) size x ≠ .write (.window off') 4 y := by
  rintro ⟨⟩
  simp [(admitted_iff off 4).2 ⟨rfl, h4⟩] at ha

theorem errorRaised_of_wrong_write {off : Fin 16} {size : Nat} {x : Word}
    (h : s.pending = .write (.window off) size x :: rest) (ha : admitted off size = false) :
    errorRaised s = some .ACCERR := by
  have hn : size ≠ 4 ∨ off.val % 4 ≠ 0 := by
    by_contra hc
    simp [(admitted_iff off size).2 (by omega)] at ha
  simp [errorRaised, h, hn]

theorem errorRaised_of_admitted_write {off : Fin 16} {x : Word}
    (h : s.pending = .write (.window off) 4 x :: rest) (ha : off.val % 4 = 0) (h0 : off ≠ 0) :
    errorRaised s = none := by
  simp [errorRaised, h, ha, h0]

theorem errorRaised_of_write_CMD {w : Word} (h : s.pending = .write (.window 0) 4 w :: rest) :
    errorRaised s =
      if s.BUSY then some .BUSYERR else if decode w = none then some .CMDERR else none := by
  simp [errorRaised, h]

theorem errorCleared_of_nil (F : ErrFlag) (h : s.pending = []) : errorCleared s F = false := by
  simp [errorCleared, h]

/-- An input clears a flag exactly if it is a reset or writes 1 to the flag's `STATUS` bit. -/
theorem errorCleared_iff (F : ErrFlag) (h : s.pending = e :: rest) :
    errorCleared s F = true ↔
      e = .reset ∨ ∃ x, e = .write (.window 0xC) 4 x ∧ x.getLsbD (causeCode F) = true := by
  rw [errorCleared, h]
  split
  case h_1 x rest' hm =>
    obtain ⟨rfl, -⟩ := List.cons.inj hm
    simp
  case h_2 rest' hm =>
    obtain ⟨rfl, -⟩ := List.cons.inj hm
    simp
  case h_3 hwrite hreset =>
    have hw : ∀ x, e ≠ .write (.window 0xC) 4 x := fun x he => hwrite x rest (by rw [he])
    have hr : e ≠ .reset := fun he => hreset rest (by rw [he])
    simp [hw, hr]

end Sys2Proof.Machine
end

section
/-! `BUSY` and `DONE` after the sequencer's step, an access and a command (R32, R33). -/

namespace Sys2Proof.Machine

theorem sequencerStep_BUSY_iff (s : State) :
    s.sequencerStep.BUSY = true ↔ s.BUSY = true ∧ s.t.val ≠ 64 := by
  rcases sequencerStep_cases s with ⟨hb, hs⟩ | ⟨hb, ht, hs⟩ | ⟨hb, ht, hs⟩
  · simp [hs, hb]
  · simp [hs, hb, ht.ne]
  · simp [hs, ht]

theorem sequencerStep_DONE_iff (s : State) :
    s.sequencerStep.DONE = true ↔ (s.BUSY = true ∧ s.t.val = 64) ∨ s.DONE = true := by
  rcases sequencerStep_cases s with ⟨hb, hs⟩ | ⟨hb, ht, hs⟩ | ⟨hb, ht, hs⟩
  · simp [hs, hb]
  · simp [hs, ht.ne]
  · simp [hs, hb, ht]

@[simp] theorem readWindow_BUSY (off : Fin 16) (size : Nat) (s : State) :
    (readWindow off size s).BUSY = s.BUSY := by
  rcases readWindow_cases off size s with ⟨-, hr⟩ | ⟨-, hr⟩ <;> simp [hr]

@[simp] theorem readWindow_DONE (off : Fin 16) (size : Nat) (s : State) :
    (readWindow off size s).DONE = s.DONE := by
  rcases readWindow_cases off size s with ⟨-, hr⟩ | ⟨-, hr⟩ <;> simp [hr]

theorem commandEffect_BUSY_iff (i : Instr) (s : State) :
    (commandEffect i s).BUSY = true ↔ i = .comp ∨ s.BUSY = true := by
  cases i <;> simp [commandEffect]

theorem commandEffect_DONE_iff (i : Instr) (s : State) :
    (commandEffect i s).DONE = true ↔
      s.DONE = true ∧ i ≠ .comp ∧ i ≠ .init ∧ ∀ k, i ≠ .wrh k := by
  cases i <;> simp [commandEffect]

end Sys2Proof.Machine
end

section
/-! The settled statements of the family of the state and its reset. -/

namespace Sys2Proof.Machine

/-- Settles O14: over the cases of one step, the flag of the next state against what the input
raises and clears. -/
theorem errorFlagLifeCycle : Obligations.ErrorFlagLifeCycle := by
  unfold Obligations.ErrorFlagLifeCycle
  intro s t F h
  rcases step_next_cases h with ⟨hp, rfl⟩ | ⟨e, rest, hp, hcases⟩
  · simp [errorRaised_of_nil hp, errorCleared_of_nil F hp, flag_sequencerStep]
  · rw [← Bool.not_eq_true, errorCleared_iff F hp]
    rcases hcases with ⟨rfl, rfl⟩ | ⟨rfl, rfl⟩ | ⟨off, size, rfl, rfl⟩ |
      ⟨off, size, x, rfl, ha, rfl⟩ | ⟨x, rfl, rfl⟩ | ⟨x, rfl, rfl⟩ | ⟨x, rfl, rfl⟩ |
      ⟨w, rfl, hb, rfl⟩ | ⟨w, rfl, hb, hd, rfl⟩ | ⟨w, i, rfl, hb, hd, rfl⟩
    · simp [errorRaised_of_turn hp, flag_sequencerStep]
    · simp [errorRaised_of_reset hp]
    · cases ha : admitted off size <;> simp [errorRaised_of_read hp, readWindow_flag, ha, or_comm]
    · simp [errorRaised_of_wrong_write hp ha, write_ne_of_not_admitted ha, or_comm]
    · simp [errorRaised_of_admitted_write hp]
    · simp [errorRaised_of_admitted_write hp]
    · simp [errorRaised_of_admitted_write hp]
    · simp [errorRaised_of_write_CMD hp, hb, or_comm]
    · simp [errorRaised_of_write_CMD hp, hb, hd, or_comm]
    · simp [errorRaised_of_write_CMD hp, hb, hd, flag_commandEffect]

/-- Settles O51: over the cases of one step; `BUSY` and `DONE` move only in the sequencer's step, a
reset and the effect of a command. -/
theorem busyAndDoneLifeCycle : Obligations.BusyAndDoneLifeCycle := by
  unfold Obligations.BusyAndDoneLifeCycle
  intro s t h
  refine ⟨by rw [statusWord_getLsbD]; rfl, by rw [statusWord_getLsbD]; rfl, ?_⟩
  rcases step_next_cases h with ⟨hp, rfl⟩ | ⟨e, rest, hp, hcases⟩
  · simp only [sequencerMoves_of_nil hp, not_resetsNext_of_nil hp, not_performs_of_nil _ hp,
      sequencerStep_BUSY_iff, sequencerStep_DONE_iff]
    tauto
  · simp only [sequencerMoves_of_cons hp, resetsNext_of_cons hp]
    rcases hcases with ⟨rfl, rfl⟩ | ⟨rfl, rfl⟩ | ⟨off, size, rfl, rfl⟩ |
      ⟨off, size, x, rfl, ha, rfl⟩ | ⟨x, rfl, rfl⟩ | ⟨x, rfl, rfl⟩ | ⟨x, rfl, rfl⟩ |
      ⟨w, rfl, hb, rfl⟩ | ⟨w, rfl, hb, hd, rfl⟩ | ⟨w, i, rfl, hb, hd, rfl⟩
    · have hnone : ∀ i, ¬performs s i := fun i => by simp [performs_of_cons i hp]
      simp only [hnone, sequencerStep_BUSY_iff, sequencerStep_DONE_iff, setPending_BUSY,
        setPending_DONE, setPending_t, reduceCtorEq]
      tauto
    · simp [performs_of_cons _ hp, State.reset]
    · simp [performs_of_cons _ hp]
    · simp [performs_of_cons _ hp, write_ne_of_not_admitted ha]
    · simp [performs_of_cons _ hp]
    · simp [performs_of_cons _ hp]
    · simp [performs_of_cons _ hp]
    · simp [performs_of_cons _ hp, hb]
    · simp [performs_of_cons _ hp, hb, hd]
    · simp [performs_of_decode _ hp hb hd, commandEffect_BUSY_iff, commandEffect_DONE_iff, hb]

/-- Settles O10: the access passes the checks of R51 and reaches `STATUS`, whatever `BUSY` is. -/
theorem statusWriteClearsOnes : Obligations.StatusWriteClearsOnes := by
  unfold Obligations.StatusWriteClearsOnes
  intro s x rest hp
  rw [step_of_cons hp]
  rfl

/-- Settles O53: every field is read off the reset state; `M` and `W` are 0 at every index. -/
theorem resetValues : Obligations.ResetValues := by
  unfold Obligations.ResetValues
  refine ⟨rfl, rfl, fun j => ?_, fun i => ?_, rfl, rfl, rfl, rfl, rfl, rfl, rfl, rfl, rfl, rfl, rfl,
    rfl⟩
  · exact Vector.getElem_replicate j.isLt
  · exact Vector.getElem_replicate i.isLt

end Sys2Proof.Machine
end

section
/-! What a step does whose next input is an admitted access (R53): one rule for a read and one for
a write, whatever the register, and the three answers of a `CMD` write (R77, R215). -/

namespace Sys2Proof.Machine

variable {s : State} {off : Fin 16} {x : Word} {i : Instr} {rest : List Event}

/-- The inputs still to come are in no register. -/
@[simp] theorem readReg_setPending (s : State) (es : List Event) (r : Reg) :
    readReg (s.setPending es) r = readReg s r := by
  cases r <;> rfl

theorem step_of_admitted_read (h : s.pending = .read (.window off) 4 :: rest)
    (ha : off.val % 4 = 0) :
    step s = .next ((s.setPending rest).pushReply ⟨4, readReg s (regAt off)⟩) := by
  simp [step_of_cons h, performEvent, readWindow, (admitted_iff off 4).2 ⟨rfl, ha⟩]

theorem step_of_admitted_write (h : s.pending = .write (.window off) 4 x :: rest)
    (ha : off.val % 4 = 0) :
    step s = writeReg x (s.setPending rest) (regAt off) := by
  simp [step_of_cons h, performEvent, writeWindow, (admitted_iff off 4).2 ⟨rfl, ha⟩]

theorem step_of_write_CMD (h : s.pending = .write (.window 0) 4 x :: rest) :
    step s = writeCMD x (s.setPending rest) :=
  step_of_admitted_write h rfl

theorem writeCMD_of_busy (x : Word) (hb : s.BUSY = true) :
    writeCMD x s = .next (s.raiseErr .BUSYERR) := by
  simp [writeCMD, hb]

theorem writeCMD_of_illegal (hb : s.BUSY = false) (hd : decode x = none) :
    writeCMD x s = .next (s.raiseErr .CMDERR) := by
  simp [writeCMD, hb, hd]

theorem writeCMD_of_legal (hb : s.BUSY = false) (hd : decode x = some i) :
    writeCMD x s = exec i s := by
  simp [writeCMD, hb, hd]

end Sys2Proof.Machine
end

section
/-! The settled statements of the family of the memory map. -/

namespace Sys2Proof.Machine

/-- Settles O8, row by row of R53's table: `CMD`, `DATA`, `RESULT`, `STATUS`, each read and then
written. Outside the `CMD` write the register at the offset alone decides the answer. -/
theorem admittedAccessEffects : Obligations.AdmittedAccessEffects := by
  unfold Obligations.AdmittedAccessEffects
  intro s x rest
  refine ⟨fun hp => ?readCMD, fun hp => ?writeCMD, fun hp => ?readDATA, fun hp => ?writeDATA,
    fun hp => ?readRESULT, fun hp => ?writeRESULT, fun hp => ?readSTATUS, ?writeSTATUS⟩
  case readCMD => exact step_of_admitted_read hp rfl
  case writeCMD =>
    rw [step_of_write_CMD hp]
    exact ⟨fun hb => writeCMD_of_busy x hb, fun hb hd => writeCMD_of_illegal hb hd,
      fun i hb hd => writeCMD_of_legal hb hd⟩
  case readDATA => exact step_of_admitted_read hp rfl
  case writeDATA => exact step_of_admitted_write hp rfl
  case readRESULT => exact step_of_admitted_read hp rfl
  case writeRESULT => exact step_of_admitted_write hp rfl
  case readSTATUS => exact step_of_admitted_read hp rfl
  case writeSTATUS => exact statusWriteClearsOnes s x rest

end Sys2Proof.Machine
end

section
/-! Command words by their fields (R70 to R72): what a mask keeps of a word, and what is left of a
word without reserved bits. -/

namespace Sys2Proof

/-- A mask of `len` ones from bit `start` keeps of a word the field that stands there. -/
theorem and_fieldMask (w : Word) (start len : Nat) :
    w &&& (BitVec.ofNat 32 (2 ^ len - 1) <<< start) =
      BitVec.ofNat 32 (w.extractLsb' start len).toNat <<< start := by
  refine BitVec.eq_of_getLsbD_eq fun i hi => ?_
  by_cases hs : i < start
  · simp [hs]
  · have hadd : start + (i - start) = i := by omega
    have hlt : i - start < 32 := by omega
    simp [-BitVec.getLsbD_eq_getElem, hs, hi, hadd, hlt, BitVec.getLsbD_ofNat,
      BitVec.testBit_toNat, Bool.and_comm]

theorem and_opcMask (w : Word) : w &&& 0xF0000000 = BitVec.ofNat 32 (fieldOPC w) <<< 28 :=
  and_fieldMask w 28 4

theorem and_fnMask (w : Word) : w &&& 0x0F000000 = BitVec.ofNat 32 (fieldFN w) <<< 24 :=
  and_fieldMask w 24 4

@[simp] theorem putIDX_idx3 (w : Word) : putIDX (idx3 w) = w &&& 0x7 := by
  simpa [putIDX, idx3] using (and_fieldMask w 0 3).symm

@[simp] theorem putIDX_idx4 (w : Word) : putIDX (idx4 w) = w &&& 0xF := by
  simpa [putIDX, idx4] using (and_fieldMask w 0 4).symm

@[simp] theorem putIDX_idx6 (w : Word) : putIDX (idx6 w) = w &&& 0x3F := by
  simpa [putIDX, idx6] using (and_fieldMask w 0 6).symm

@[simp] theorem putSH_sh5 (w : Word) : putSH (sh5 w) = w &&& 0x001F0000 :=
  (and_fieldMask w 16 5).symm

/-- R70: a word's `OPC`, and its `FN` under `OPC = 0x8`, with every other bit 0. -/
def classWord (w : Word) : Word :=
  BitVec.ofNat 32 (fieldOPC w) <<< 28 |||
    (if fieldOPC w = 8 then BitVec.ofNat 32 (fieldFN w) <<< 24 else 0)

/-- R71: outside the operand field, a word without reserved bits is its class. -/
theorem and_not_operandMask {w : Word} (h : w &&& reservedMask w = 0) :
    w &&& ~~~(wordFormat w).operandMask = classWord w := by
  have hbits : ~~~(wordFormat w).operandMask =
      0xF0000000 ||| (if fieldOPC w = 8 then 0x0F000000 else 0) ||| reservedMask w := by
    unfold reservedMask
    cases wordFormat w <;> split <;> decide
  rw [hbits, BitVec.and_or_distrib_left, h, BitVec.and_or_distrib_left, classWord, ← and_opcMask,
    ← and_fnMask]
  split <;> simp

/-- R78: a word fails the class, function and reserved-bit checks exactly if it stands in one of
the rule's three rows. -/
theorem wellFormedWord_eq_false_iff (w : Word) :
    wellFormedWord w = false ↔
      fieldOPC w ≥ 0xD ∨ (fieldOPC w = 8 ∧ fieldFN w ≥ 0xA) ∨ w &&& reservedMask w ≠ 0 := by
  simp [wellFormedWord, opcOk, fnOk, reservedOk, or_assoc, imp_iff_not_or]

end Sys2Proof
end

section
/-! The decoder against the encoder and against the checks of R78: decoding inverts encoding, and a
word decodes exactly if it passes the checks. A row of the opcode map is known by the class and the
format of its pattern (R70 to R72, R76). -/

namespace Sys2Proof

variable {w : Word} {i : Instr} {r : Row}

/-- R72: a row's mask leaves out the operand field of its format only. -/
theorem row_mask_eq : ∀ r ∈ opcodeTable, r.mask = ~~~(wordFormat r.pattern).operandMask := by
  decide

theorem row_pattern_eq : ∀ r ∈ opcodeTable, r.pattern = classWord r.pattern := by
  decide

/-- R76: every operation class and ALU function that R78 does not reserve has a row. -/
theorem exists_row_of_class : ∀ opc < 0xD, ∀ fn < 16, (opc = 8 → fn < 0xA) →
    ∃ r ∈ opcodeTable, fieldOPC r.pattern = opc ∧ (opc = 8 → fieldFN r.pattern = fn) := by
  decide

/-- R77: a word without reserved bits selects the row of its class. -/
theorem selects_of_class (hr : r ∈ opcodeTable) (hopc : fieldOPC r.pattern = fieldOPC w)
    (hfn : fieldOPC w = 8 → fieldFN r.pattern = fieldFN w) (h : w &&& reservedMask w = 0) :
    r.selects w = true := by
  have hformat : wordFormat r.pattern = wordFormat w := by
    simp only [wordFormat, hopc]
    split <;> simp [*]
  have hclass : classWord r.pattern = classWord w := by
    simp only [classWord, hopc]
    split
    · rw [hfn ‹_›]
    · rfl
  refine decide_eq_true ?_
  calc w &&& r.mask = w &&& ~~~(wordFormat w).operandMask := by rw [row_mask_eq r hr, hformat]
    _ = classWord w := and_not_operandMask h
    _ = r.pattern := by rw [← hclass, ← row_pattern_eq r hr]

/-- R72: the word of a row's command is the row's pattern with the operand field of the word the
command was built from. -/
theorem encode_build (w : Word) : ∀ r ∈ opcodeTable,
    encode (r.build w) = r.pattern ||| (w &&& ~~~r.mask) := by
  simp [opcodeTable, rowsTransfer, rowsAlu, rowsOperandRom, encode]

theorem encode_of_decode (h : decode w = some i) : encode i = w := by
  obtain ⟨r, hfind, rfl⟩ := Option.map_eq_some_iff.1 h
  have hr : r ∈ opcodeTable := List.mem_of_find?_eq_some hfind
  have hsel : w &&& r.mask = r.pattern :=
    of_decide_eq_true (List.find?_some (p := fun r : Row => r.selects w) hfind)
  calc encode (r.build w) = (w &&& r.mask) ||| (w &&& ~~~r.mask) := by
        rw [encode_build w r hr, hsel]
    _ = w := by rw [← BitVec.and_or_distrib_left, BitVec.or_not_self, BitVec.and_allOnes]

theorem decode_encode (i : Instr) : decode (encode i) = some i := by
  cases i with
  | wrh k | rdh k | rdiv k | wrw k | rdw k | wrb k | rdk k | rotr k | shr k => revert k; decide
  | _ => rfl

theorem decode_eq_some_iff : decode w = some i ↔ encode i = w :=
  ⟨encode_of_decode, fun h => h ▸ decode_encode i⟩

theorem encode_injective : Function.Injective encode := fun i j h =>
  Option.some.inj (by rw [← decode_encode i, h, decode_encode])

/-- The facts of `EncodedFields` of every command. -/
theorem encodedFields : ∀ i, Laws.EncodedFields.Statement i
  | .nop => Laws.EncodedFields.nop
  | .init => Laws.EncodedFields.init
  | .wrh i => Laws.EncodedFields.wrh i
  | .rdh i => Laws.EncodedFields.rdh i
  | .wrw i => Laws.EncodedFields.wrw i
  | .rdw i => Laws.EncodedFields.rdw i
  | .wrb j => Laws.EncodedFields.wrb j
  | .comp => Laws.EncodedFields.comp
  | .rotr n => Laws.EncodedFields.rotr n
  | .shr n => Laws.EncodedFields.shr n
  | .ch => Laws.EncodedFields.ch
  | .maj => Laws.EncodedFields.maj
  | .bsig0 => Laws.EncodedFields.bsig0
  | .bsig1 => Laws.EncodedFields.bsig1
  | .ssig0 => Laws.EncodedFields.ssig0
  | .ssig1 => Laws.EncodedFields.ssig1
  | .add => Laws.EncodedFields.add
  | .add3 => Laws.EncodedFields.add3
  | .wry => Laws.EncodedFields.wry
  | .wrz => Laws.EncodedFields.wrz
  | .rdk i => Laws.EncodedFields.rdk i
  | .rdiv i => Laws.EncodedFields.rdiv i

theorem wellFormedWord_encode (i : Instr) : wellFormedWord (encode i) = true := by
  obtain ⟨-, hword, -⟩ := encodedFields i
  exact hword

/-- R76, R78: the opcode map has a row for every word that passes the checks of R78. -/
theorem decode_isSome_of_wellFormedWord (h : wellFormedWord w = true) : (decode w).isSome := by
  simp only [wellFormedWord, opcOk, fnOk, reservedOk, Bool.and_eq_true, decide_eq_true_eq] at h
  obtain ⟨⟨hopc, hfn⟩, hres⟩ := h
  obtain ⟨r, hr, hro, hrf⟩ := exists_row_of_class _ hopc _ (w.extractLsb' 24 4).isLt hfn
  rw [decode, Option.isSome_map, List.find?_isSome]
  exact ⟨r, hr, selects_of_class hr hro hrf hres⟩

theorem decode_eq_none_iff (w : Word) : decode w = none ↔ wellFormedWord w = false := by
  constructor
  · intro hd
    by_contra hw
    have hsome := decode_isSome_of_wellFormedWord (Bool.eq_true_of_not_eq_false hw)
    simp [hd] at hsome
  · intro hw
    cases hd : decode w with
    | none => rfl
    | some i =>
      rw [← encode_of_decode hd, wellFormedWord_encode] at hw
      cases hw

end Sys2Proof
end

section
/-! The legal words of R78, counted by format. -/

namespace Sys2Proof

/-- R72, R76: the commands of each format. -/
def instrsOf : Format → List Instr
  | .N => [.nop, .init, .comp, .wry, .wrz]
  | .I3 => (List.finRange 8).map .wrh ++ (List.finRange 8).map .rdh ++ (List.finRange 8).map .rdiv
  | .I4 => (List.finRange 16).map .wrw ++ (List.finRange 16).map .rdw
  | .I6 => (List.finRange 64).map .wrb ++ (List.finRange 64).map .rdk
  | .A => [.ch, .maj, .bsig0, .bsig1, .ssig0, .ssig1, .add, .add3]
  | .AS => (List.finRange 32).map .rotr ++ (List.finRange 32).map .shr

theorem mem_instrsOf (i : Instr) (f : Format) : i ∈ instrsOf f ↔ i.format = f := by
  cases f <;> cases i <;> simp [instrsOf, Instr.format]

theorem nodup_instrsOf (f : Format) : (instrsOf f).Nodup := by
  have hne : ∀ n, (List.finRange n).Pairwise fun i j => ¬i = j := List.nodup_finRange
  cases f <;>
    simp [instrsOf, List.Nodup, List.pairwise_append, List.pairwise_map, hne, or_imp, forall_and]

/-- R78: all commands, format by format. -/
def allInstrs : List Instr := [Format.N, .I3, .I4, .I6, .A, .AS].flatMap instrsOf

theorem length_allInstrs : allInstrs.length = 261 := by
  simp [allInstrs, instrsOf]

theorem mem_allInstrs (i : Instr) : i ∈ allInstrs := by
  have hall (f : Format) : f ∈ [Format.N, .I3, .I4, .I6, .A, .AS] := by cases f <;> decide
  exact List.mem_flatMap.2 ⟨i.format, hall _, (mem_instrsOf i _).2 rfl⟩

/-- No command stands twice: the list of one format has none twice, and none has two formats. -/
theorem nodup_allInstrs : allInstrs.Nodup := by
  refine List.nodup_flatMap.2 ⟨fun f _ => nodup_instrsOf f, ?_⟩
  have hne : [Format.N, .I3, .I4, .I6, .A, .AS].Nodup := by decide
  refine hne.imp fun {f g} hfg i hf hg => hfg ?_
  rw [← (mem_instrsOf i f).1 hf, (mem_instrsOf i g).1 hg]

theorem mem_map_encode_allInstrs (w : Word) :
    w ∈ allInstrs.map encode ↔ ∃ i, decode w = some i := by
  simp [mem_allInstrs, decode_eq_some_iff]

end Sys2Proof
end

section
/-! The settled statement of the family of the command encoding. -/

namespace Sys2Proof.Machine

/-- Settles O5: decoding agrees with the checks of R78, an illegal word's write raises `CMDERR`, and
the legal words are the encodings of the 261 commands. -/
theorem illegalWordsOnlySetCMDERR : Obligations.IllegalWordsOnlySetCMDERR := by
  unfold Obligations.IllegalWordsOnlySetCMDERR
  refine ⟨fun w => ?rows, fun w s hb hd => ?effect, allInstrs.map encode, ?count, ?nodup,
    mem_map_encode_allInstrs⟩
  case rows => rw [decode_eq_none_iff, wellFormedWord_eq_false_iff]
  case effect => exact writeCMD_of_illegal hb hd
  case count => rw [List.length_map, length_allInstrs]
  case nodup => exact nodup_allInstrs.map encode_injective

end Sys2Proof.Machine
end

section
/-! The word functions of R100 to R103, bit by bit. -/

namespace Sys2Proof.Machine

@[simp] theorem rotr_zero (x : Word) : rotr x 0 = x := if_pos rfl

theorem rotr_of_pos (x : Word) {n : Nat} (hn : 1 ≤ n) :
    rotr x n = (x >>> n) ||| (x <<< (32 - n)) := if_neg (by omega)

/-- The model's rotation is the library's for every amount R100 admits. -/
theorem rotr_eq_rotateRight (x : Word) {n : Nat} (hn : n < 32) : rotr x n = x.rotateRight n := by
  rw [BitVec.rotateRight_def, Nat.mod_eq_of_lt hn]
  rcases Nat.eq_zero_or_pos n with rfl | hpos
  · simp
  · exact rotr_of_pos x hpos

theorem rotr_getLsbD (x : Word) {n i : Nat} (hn : n < 32) (hi : i < 32) :
    (rotr x n).getLsbD i = x.getLsbD ((i + n) % 32) := by
  rw [rotr_eq_rotateRight x hn, BitVec.getLsbD_rotateRight, Nat.mod_eq_of_lt hn]
  rcases Nat.lt_or_ge i (32 - n) with hstay | hwrap
  · have hmod : (i + n) % 32 = n + i := by omega
    simp [hstay, hmod]
  · have hmod : (i + n) % 32 = i - (32 - n) := by omega
    simp [Nat.not_lt.2 hwrap, hmod, hi]

@[simp] theorem shr_zero (x : Word) : shr x 0 = x := BitVec.ushiftRight_zero x

theorem shr_toNat (x : Word) (n : Nat) : (shr x n).toNat = x.toNat / 2 ^ n := by
  rw [shr, BitVec.toNat_ushiftRight, Nat.shiftRight_eq_div_pow]

theorem shr_getLsbD (x : Word) (n i : Nat) :
    (shr x n).getLsbD i = if i + n ≤ 31 then x.getLsbD (i + n) else false := by
  rw [shr, BitVec.getLsbD_ushiftRight, Nat.add_comm n i]
  split
  case isTrue => rfl
  case isFalse hout => exact BitVec.getLsbD_of_ge x (i + n) (by omega)

theorem ch_getLsbD (x y z : Word) {i : Nat} (hi : i < 32) :
    (ch x y z).getLsbD i = if x.getLsbD i then y.getLsbD i else z.getLsbD i := by
  simp only [ch, BitVec.getLsbD_xor, BitVec.getLsbD_and, BitVec.getLsbD_not, hi, decide_true,
    Bool.true_and]
  cases x.getLsbD i <;> simp

theorem maj_getLsbD (x y z : Word) (i : Nat) :
    (maj x y z).getLsbD i =
      decide (2 ≤ (x.getLsbD i).toNat + (y.getLsbD i).toNat + (z.getLsbD i).toNat) := by
  have majority : ∀ a b c : Bool,
      ((a && b) ^^ (a && c) ^^ (b && c)) = decide (2 ≤ a.toNat + b.toNat + c.toNat) := by decide
  simp only [maj, BitVec.getLsbD_xor, BitVec.getLsbD_and, majority]

end Sys2Proof.Machine
end

section
/-! The settled statements of the family of the ALU. What a command writes and leaves unchanged is
`exec_of_idle` at the command: `setRESULT` is the update of the one field. -/

namespace Sys2Proof.Machine

/-- Settles O20: the rotation is the library's, whose bits are known. -/
theorem rotrRotatesRight : Obligations.RotrRotatesRight := by
  unfold Obligations.RotrRotatesRight
  refine ⟨fun n s hb => exec_of_idle (.rotr n) hb, fun x => ⟨rotr_zero x, ?formula, ?bits⟩⟩
  case formula => exact fun n hpos _ => rotr_of_pos x hpos
  case bits => exact fun n i hn hi => rotr_getLsbD x hn hi

/-- Settles O21: the shift is a division, and its bits come from `n` places further up. -/
theorem shrShiftsInZeros : Obligations.ShrShiftsInZeros := by
  unfold Obligations.ShrShiftsInZeros
  exact ⟨fun n s hb => exec_of_idle (.shr n) hb,
    fun x => ⟨shr_zero x, fun n _ => ⟨shr_toNat x n, fun i _ => shr_getLsbD x n i⟩⟩⟩

/-- Settles O22: the formulas are the definitions, and each bit follows from the three operands'
bits in its place. -/
theorem chooseAndMajority : Obligations.ChooseAndMajority := by
  unfold Obligations.ChooseAndMajority
  exact ⟨fun s hb => ⟨exec_of_idle .ch hb, exec_of_idle .maj hb⟩,
    fun x y z => ⟨rfl, rfl, fun i hi => ⟨ch_getLsbD x y z hi, maj_getLsbD x y z i⟩⟩⟩

/-- Settles O23: the amounts are those of the definitions, and each command writes its function. -/
theorem sigmaCommands : Obligations.SigmaCommands := by
  unfold Obligations.SigmaCommands
  exact ⟨fun x => ⟨rfl, rfl, rfl, rfl⟩, fun s hb =>
    ⟨exec_of_idle .bsig0 hb, exec_of_idle .bsig1 hb, exec_of_idle .ssig0 hb,
      exec_of_idle .ssig1 hb⟩⟩

end Sys2Proof.Machine
end

section
/-! The message schedule word by word (R160), the round function and the final sum written out
(R161, R162, R166), and the step on the sequencer's turn (R163). -/

namespace Sys2Proof.Machine

theorem scheduleWord_eq_ite (w : Vector Word 64) (t : Fin 64) :
    scheduleWord w t = if t.val < 16 then w[t.val] else
      smallSigma1 (w[t.val - 2]'(by omega)) + w[t.val - 7]'(by omega) +
        smallSigma0 (w[t.val - 15]'(by omega)) + w[t.val - 16]'(by omega) := rfl

theorem scheduleWord_of_lt (w : Vector Word 64) {t : Fin 64} (ht : t.val < 16) :
    scheduleWord w t = w[t.val] := if_pos ht

theorem scheduleWord_of_ge (w : Vector Word 64) {t : Fin 64} (ht : 16 ≤ t.val) :
    scheduleWord w t =
      smallSigma1 (w[t.val - 2]'(by omega)) + w[t.val - 7]'(by omega) +
        smallSigma0 (w[t.val - 15]'(by omega)) + w[t.val - 16]'(by omega) :=
  if_neg (Nat.not_lt.2 ht)

theorem scheduleStart_getElem (B : Vector Byte 64) (i : Fin 16) :
    (scheduleStart B)[i.val] = blockWord B i := by
  simp [scheduleStart]

theorem scheduleUpTo_succ_of_ge (B : Vector Byte 64) {k : Nat} (h : 64 ≤ k) :
    scheduleUpTo B (k + 1) = scheduleUpTo B k :=
  dif_neg (Nat.not_lt.2 h)

theorem scheduleUpTo_succ_getElem_self (B : Vector Byte 64) (t : Fin 64) :
    (scheduleUpTo B (t.val + 1))[t.val] = scheduleWord (scheduleUpTo B t.val) t := by
  rw [scheduleUpTo_succ B t.isLt, Vector.getElem_set_self]

/-- Round `k` writes word `k`, which up to round 15 it leaves as the block gave it. -/
theorem scheduleUpTo_succ_getElem (B : Vector Byte 64) (k : Nat) {i : Fin 64}
    (hi : i.val < max 16 k) : (scheduleUpTo B (k + 1))[i.val] = (scheduleUpTo B k)[i.val] := by
  rcases Nat.lt_or_ge k 64 with hk | hk
  · rcases eq_or_ne k i.val with rfl | hne
    · rw [scheduleUpTo_succ_getElem_self, scheduleWord_of_lt _ (by omega)]
    · rw [scheduleUpTo_succ B hk, Vector.getElem_set_ne hk i.isLt hne]
  · simp only [scheduleUpTo_succ_of_ge B hk]

/-- A word of the schedule keeps its value once it has been computed. -/
theorem scheduleUpTo_getElem_of_le (B : Vector Byte 64) {k n : Nat} (hkn : k ≤ n) {i : Fin 64}
    (hi : i.val < max 16 k) : (scheduleUpTo B n)[i.val] = (scheduleUpTo B k)[i.val] := by
  induction n, hkn using Nat.le_induction with
  | base => rfl
  | succ n hkn ih => rw [scheduleUpTo_succ_getElem B n (by omega), ih]

theorem schedule_getElem_eq_scheduleUpTo (B : Vector Byte 64) {k : Nat} (hk : k ≤ 64) {i : Fin 64}
    (hi : i.val < max 16 k) : (schedule B)[i.val] = (scheduleUpTo B k)[i.val] :=
  scheduleUpTo_getElem_of_le B hk hi

theorem schedule_getElem_of_lt (B : Vector Byte 64) (i : Fin 16) :
    (schedule B)[i.val] = blockWord B i := by
  calc (schedule B)[i.val] = (scheduleUpTo B 0)[i.val] :=
        schedule_getElem_eq_scheduleUpTo B (k := 0) (i := ⟨i.val, by omega⟩) (Nat.zero_le 64)
          (lt_max_of_lt_left i.isLt)
    _ = blockWord B i := by rw [scheduleUpTo_zero, scheduleStart_getElem]

/-- R160: the finished schedule meets its own recurrence. -/
theorem schedule_getElem_eq_scheduleWord (B : Vector Byte 64) (t : Fin 64) :
    (schedule B)[t.val] = scheduleWord (schedule B) t := by
  calc (schedule B)[t.val] = (scheduleUpTo B (t.val + 1))[t.val] :=
        schedule_getElem_eq_scheduleUpTo B t.isLt (by omega)
    _ = scheduleWord (scheduleUpTo B t.val) t := scheduleUpTo_succ_getElem_self B t
    _ = scheduleWord (schedule B) t :=
        scheduleWord_congr fun _ hi => (schedule_getElem_eq_scheduleUpTo B t.isLt.le hi).symm

theorem addHash_getElem (H : Vector Word 8) (v : WorkVars) (i : Fin 8) :
    (addHash H v)[i.val] = H[i.val] + v.toVector[i.val] :=
  Vector.getElem_ofFn _

theorem addHash_eq (H : Vector Word 8) (v : WorkVars) :
    addHash H v = #v[H[0] + v.a, H[1] + v.b, H[2] + v.c, H[3] + v.d, H[4] + v.e, H[5] + v.f,
      H[6] + v.g, H[7] + v.h] := by
  refine Vector.ext fun i hi => ?_
  rw [addHash_getElem H v ⟨i, hi⟩]
  interval_cases i <;> rfl

theorem compressionRound_eq (t : Fin 64) (v : WorkVars) (wt : Word) :
    compressionRound t v wt = ⟨temp1 t v wt + temp2 v, v.a, v.b, v.c, v.d + temp1 t v wt, v.e, v.f,
      v.g⟩ := rfl

/-- R163: a turn is the sequencer's step on the inputs that remain. -/
theorem step_of_turn {s : State} {rest : List Event} (h : s.pending = .turn :: rest) :
    step s = .next (s.setPending rest).sequencerStep :=
  step_of_cons h

end Sys2Proof.Machine
end

section
/-! The settled statements of the family of the compression. -/

namespace Sys2Proof.Machine

/-- Settles O34: a word of the schedule is final once its round is computed, so the finished
schedule starts with the block's words and meets the recurrence. -/
theorem scheduleRecurrence : Obligations.ScheduleRecurrence := by
  unfold Obligations.ScheduleRecurrence
  refine fun B => ⟨fun i => ?blockWords, fun t ht => ?recurrence⟩
  case blockWords => exact schedule_getElem_of_lt B i
  case recurrence => rw [schedule_getElem_eq_scheduleWord, scheduleWord_of_ge _ ht]

/-- Settles O35: `T1` and `T2` are the model's `temp1` and `temp2`; the variables follow the
recursion of `varsAfter`, and the sum is taken element by element. -/
theorem compressionFunction : Obligations.CompressionFunction := by
  unfold Obligations.CompressionFunction
  refine ⟨?round, fun H B => ⟨varsAfter_zero H _, fun t => varsAfter_succ H _ t.isLt, ?sum⟩⟩
  case round =>
    rintro t v wt _ _ rfl rfl
    exact compressionRound_eq t v wt
  case sum =>
    rintro v rfl
    exact addHash_eq H _

/-- Settles O37: the three cases of the sequencer's step; a round step writes the one word
`scheduleWord` gives. -/
theorem sequencerSteps_of_turn : Obligations.SequencerSteps := by
  unfold Obligations.SequencerSteps
  intro s rest hp
  rw [step_of_turn hp]
  refine ⟨fun hb => ?idle, fun t wt hb ht hwt => ?round, fun hb ht => ?update⟩
  case idle => rw [sequencerStep_of_idle (s := s.setPending rest) hb]; rfl
  case round =>
    have hword : wt = scheduleWord s.W t := hwt.trans (scheduleWord_eq_ite s.W t).symm
    have hlt : (s.setPending rest).t.val < 64 := ht.trans_lt t.isLt
    have hround : (⟨(s.setPending rest).t.val, hlt⟩ : Fin 64) = t := Fin.ext ht
    rw [sequencerStep_of_round (s := s.setPending rest) hb hlt, hround, hword]
    exact ⟨s.W.set t.val (scheduleWord s.W t), rfl, Vector.getElem_set_self t.isLt,
      fun k hk => Vector.getElem_set_ne t.isLt k.isLt (Fin.val_ne_of_ne hk.symm)⟩
  case update =>
    rw [sequencerStep_of_update (s := s.setPending rest) hb ht, ← addHash_eq]
    rfl

end Sys2Proof.Machine
end

section
/-! The checks of one access in R215's order: what a step does whose next input fails the check of
R51 (R213), and where an admitted write is refused at `CMD`. -/

namespace Sys2Proof.Machine

variable {s : State} {off : Fin 16} {size : Nat} {x : Word} {rest : List Event}

theorem admitted_eq_false_iff (off : Fin 16) (size : Nat) :
    admitted off size = false ↔ size ≠ 4 ∨ off.val % 4 ≠ 0 := by
  rw [← Bool.not_eq_true, admitted_iff, not_and_or]

theorem step_of_wrong_write (h : s.pending = .write (.window off) size x :: rest)
    (hw : size ≠ 4 ∨ off.val % 4 ≠ 0) :
    step s = .next ((s.setPending rest).raiseErr .ACCERR) := by
  simp [step_of_cons h, performEvent, writeWindow, (admitted_eq_false_iff off size).2 hw]

theorem step_of_wrong_read (h : s.pending = .read (.window off) size :: rest)
    (hw : size ≠ 4 ∨ off.val % 4 ≠ 0) :
    step s = .next (((s.setPending rest).raiseErr .ACCERR).pushReply ⟨size, 0⟩) := by
  simp [step_of_cons h, performEvent, readWindow, (admitted_eq_false_iff off size).2 hw]

/-- Of the admitted writes only one at `CMD` can be refused, for `BUSY` before the word. -/
theorem writeReg_eq_ite (x : Word) (s : State) (off : Fin 16) :
    writeReg x s (regAt off) =
      if off = 0 ∧ s.BUSY = true then .next (s.raiseErr .BUSYERR)
      else if off = 0 ∧ decode x = none then .next (s.raiseErr .CMDERR)
      else writeReg x s (regAt off) := by
  split_ifs with hbusy hword
  · obtain ⟨rfl, hb⟩ := hbusy
    exact writeCMD_of_busy x hb
  · obtain ⟨rfl, hd⟩ := hword
    have hb : s.BUSY = false := by simpa using hbusy
    exact writeCMD_of_illegal hb hd
  · rfl

end Sys2Proof.Machine
end

section
/-! The settled statements of the family of the exceptions. -/

namespace Sys2Proof.Machine

/-- Settles O13: the flags by what `raiseErr` does to each of them, every other field by its own
lemma. -/
theorem raiseErrOnlySetsItsFlag : Obligations.RaiseErrOnlySetsItsFlag := by
  unfold Obligations.RaiseErrOnlySetsItsFlag
  refine fun s F => ⟨?raised, fun G hG => ?otherFlags, ?frame⟩
  case raised => simp
  case otherFlags => simp [hG.symm]
  case frame => simp

/-- Settles O11: the check of R51 fails, so neither the register nor `BUSY` is looked at. -/
theorem wrongAccessOnlySetsACCERR : Obligations.WrongAccessOnlySetsACCERR := by
  unfold Obligations.WrongAccessOnlySetsACCERR
  refine ⟨fun s => ?bit, fun s off size x rest hw => ⟨fun hp => ?write, fun hp => ?read⟩⟩
  case bit => rw [statusWord_getLsbD]; rfl
  case write => exact step_of_wrong_write hp hw
  case read => exact step_of_wrong_read hp hw

/-- Settles O7: the check of R51 comes first; an access that passes it is performed, and a write
then meets the two checks of `writeReg_eq_ite`. -/
theorem accessCheckingOrder : Obligations.AccessCheckingOrder := by
  unfold Obligations.AccessCheckingOrder
  intro s off size x rest
  by_cases hw : size ≠ 4 ∨ off.val % 4 ≠ 0
  · simp only [if_pos hw]
    exact ⟨fun hp => step_of_wrong_write hp hw, fun hp => step_of_wrong_read hp hw⟩
  · obtain ⟨rfl, ha⟩ : size = 4 ∧ off.val % 4 = 0 := by omega
    simp only [if_neg hw]
    refine ⟨fun hp => ?write, fun hp => ?read⟩
    case write => exact (step_of_admitted_write hp ha).trans (writeReg_eq_ite x _ off)
    case read => exact step_of_admitted_read hp ha

end Sys2Proof.Machine
end

section
/-! The settled statements about command words, the opcode map and the write of a command. -/

namespace Sys2Proof.Machine

/-- Settles O2: from the round trip of every command and operand. -/
theorem decodeOfEncode : Obligations.DecodeOfEncode := by
  unfold Obligations.DecodeOfEncode
  exact decode_encode

/-- Settles O3: the word is put together again from its row and its operand field. -/
theorem decodedWordIsItsEncoding : Obligations.DecodedWordIsItsEncoding := by
  unfold Obligations.DecodedWordIsItsEncoding
  exact fun w i h => encode_of_decode h

/-- R76: two rows differ on bits that both masks keep. -/
theorem opcodeTable_pairwise_disagree :
    opcodeTable.Pairwise fun r r' => r.pattern &&& r'.mask ≠ r'.pattern &&& r.mask := by
  decide

/-- Two rows that select one word agree on the bits both masks keep. -/
theorem agree_of_selects {r r' : Row} {w : Word} (h : r.selects w = true)
    (h' : r'.selects w = true) : r.pattern &&& r'.mask = r'.pattern &&& r.mask := by
  rw [← of_decide_eq_true h, ← of_decide_eq_true h', BitVec.and_assoc, BitVec.and_assoc,
    BitVec.and_comm r.mask]

/-- Settles O4: no two rows agree on the bits both masks keep, as two rows that select one word
would. -/
theorem atMostOneRowMatches : Obligations.AtMostOneRowMatches := by
  unfold Obligations.AtMostOneRowMatches
  refine ⟨rfl, fun w j k rj rk hj hk hsj hsk => ?_⟩
  obtain ⟨hjlt, rfl⟩ := List.getElem?_eq_some_iff.1 hj
  obtain ⟨hklt, rfl⟩ := List.getElem?_eq_some_iff.1 hk
  have hpair := List.pairwise_iff_getElem.1 opcodeTable_pairwise_disagree
  rcases Nat.lt_trichotomy j k with hlt | heq | hgt
  · exact absurd (agree_of_selects hsj hsk) (hpair j k hjlt hklt hlt)
  · exact heq
  · exact absurd (agree_of_selects hsk hsj) (hpair k j hklt hjlt hgt)

/-- Settles O1: a legal word decodes to the command it is the encoding of, and each illegal word
stands in a row of R78. -/
theorem workedEncodings : Obligations.WorkedEncodings := by
  unfold Obligations.WorkedEncodings
  refine ⟨fun p hp => ?legal, fun w hw s hb => ?illegal⟩
  case legal =>
    have hword : encode p.2 = p.1 := by revert p; decide
    exact ⟨decode_eq_some_iff.2 hword, hword⟩
  case illegal =>
    refine writeCMD_of_illegal hb ((decode_eq_none_iff w).2 ((wellFormedWord_eq_false_iff w).2 ?_))
    revert w
    simp [fieldOPC, fieldFN, reservedMask, wordFormat, Format.operandMask]

/-- Settles O6: the write reaches `CMD` and passes the checks of R215. -/
theorem stepRunsDecodedCommand : Obligations.StepRunsDecodedCommand := by
  unfold Obligations.StepRunsDecodedCommand
  intro s w i rest hp hb hd
  rw [step_of_write_CMD hp]
  exact writeCMD_of_legal (s := s.setPending rest) hb hd

end Sys2Proof.Machine
end

section
/-! One step by its agent (R5, R57): the sequencer, a reset, a performed command, or an access that
reaches only the bus side of the engine; and what that leaves to change each register. -/

namespace Sys2Proof.Machine

variable {s t u : State} {i : Instr}

/-- The two states agree but for what a host access can change beside a command: `DATA`, the error
flags, and the model's own two fields. -/
structure SameEngine (s u : State) : Prop where
  H : u.H = s.H
  M : u.M = s.M
  W : u.W = s.W
  v : u.v = s.v
  t : u.t = s.t
  RESULT : u.RESULT = s.RESULT
  OPY : u.OPY = s.OPY
  OPZ : u.OPZ = s.OPZ
  BUSY : u.BUSY = s.BUSY
  DONE : u.DONE = s.DONE

theorem sameEngine_raiseErr (s : State) (p : List Event) (F : ErrFlag) :
    SameEngine s ((s.setPending p).raiseErr F) := by
  constructor <;> simp

theorem sameEngine_readWindow (s : State) (p : List Event) (off : Fin 16) (size : Nat) :
    SameEngine s (readWindow off size (s.setPending p)) := by
  rcases readWindow_cases off size (s.setPending p) with ⟨-, hr⟩ | ⟨-, hr⟩ <;> rw [hr] <;>
    constructor <;> simp

@[simp] theorem readWindow_DATA (off : Fin 16) (size : Nat) (s : State) :
    (readWindow off size s).DATA = s.DATA := by
  rcases readWindow_cases off size s with ⟨-, hr⟩ | ⟨-, hr⟩ <;> simp [hr]

/-- Everything one step that answers a next state can have done, by who moved. -/
theorem step_next_agent (h : step s = .next t) :
    ((s.pending = [] ∨ ∃ rest, s.pending = .turn :: rest) ∧
      ∃ p, t = s.sequencerStep.setPending p) ∨
    (resetsNext s ∧ ∃ p, t = s.resetEngine.setPending p) ∨
    (∃ i p, performs s i ∧ t = (commandEffect i s).setPending p) ∨
    (SameEngine s t ∧ (t.DATA = s.DATA ∨ ∃ x, writesNext s 4 x ∧ t.DATA = x)) := by
  rcases step_next_cases h with ⟨hp, rfl⟩ | ⟨e, rest, hp, hcases⟩
  · refine .inl ⟨.inl hp, [], ?_⟩
    rw [← sequencerStep_setPending, setPending_of_pending hp]
  · rcases hcases with ⟨rfl, rfl⟩ | ⟨rfl, rfl⟩ | ⟨off, size, rfl, rfl⟩ |
      ⟨off, size, x, rfl, -, rfl⟩ | ⟨x, rfl, rfl⟩ | ⟨x, rfl, rfl⟩ | ⟨x, rfl, rfl⟩ |
      ⟨w, rfl, -, rfl⟩ | ⟨w, rfl, -, -, rfl⟩ | ⟨w, i, rfl, hb, hd, rfl⟩
    · exact .inl ⟨.inr ⟨rest, hp⟩, rest, sequencerStep_setPending s rest⟩
    · exact .inr (.inl ⟨⟨rest, hp⟩, rest, rfl⟩)
    · exact .inr (.inr (.inr ⟨sameEngine_readWindow s rest off size, .inl (by simp)⟩))
    · exact .inr (.inr (.inr ⟨sameEngine_raiseErr s rest _, .inl (by simp)⟩))
    · exact .inr (.inr (.inr ⟨by constructor <;> rfl, .inr ⟨x, ⟨rest, hp⟩, rfl⟩⟩))
    · exact .inr (.inr (.inr ⟨by constructor <;> rfl, .inl rfl⟩))
    · exact .inr (.inr (.inr ⟨by constructor <;> rfl, .inl rfl⟩))
    · exact .inr (.inr (.inr ⟨sameEngine_raiseErr s rest _, .inl (by simp)⟩))
    · exact .inr (.inr (.inr ⟨sameEngine_raiseErr s rest _, .inl (by simp)⟩))
    · exact .inr (.inr (.inl ⟨i, rest, ⟨w, rest, hp, hb, hd⟩, commandEffect_setPending i s rest⟩))

/-! ### What the sequencer's step leaves unchanged -/

/-- R166: of the sequencer's two steps only the update writes `H`. -/
theorem sequencerStep_H_of_ne (h : s.sequencerStep.H ≠ s.H) : s.BUSY = true ∧ s.t.val = 64 := by
  rcases sequencerStep_cases s with ⟨-, hs⟩ | ⟨-, _, hs⟩ | ⟨hb, ht, -⟩
  · exact absurd (by rw [hs]) h
  · exact absurd (by rw [hs, roundStep_H]) h
  · exact ⟨hb, ht⟩

/-- R165: of the sequencer's two steps only the round writes `t`, `a..h` and `W`. -/
theorem sequencerStep_round_of_ne
    (h : s.sequencerStep.t ≠ s.t ∨ s.sequencerStep.v ≠ s.v ∨ s.sequencerStep.W ≠ s.W) :
    s.BUSY = true ∧ s.t.val < 64 := by
  rcases sequencerStep_cases s with ⟨-, hs⟩ | ⟨hb, ht, -⟩ | ⟨-, -, hs⟩
  · simp [hs] at h
  · exact ⟨hb, ht⟩
  · simp [hs] at h

section
variable (s : State)

@[simp] theorem sequencerStep_M : s.sequencerStep.M = s.M := by
  rcases sequencerStep_cases s with ⟨-, hs⟩ | ⟨-, _, hs⟩ | ⟨-, -, hs⟩ <;> simp [hs]
@[simp] theorem sequencerStep_RESULT : s.sequencerStep.RESULT = s.RESULT := by
  rcases sequencerStep_cases s with ⟨-, hs⟩ | ⟨-, _, hs⟩ | ⟨-, -, hs⟩ <;> simp [hs]
@[simp] theorem sequencerStep_DATA : s.sequencerStep.DATA = s.DATA := by
  rcases sequencerStep_cases s with ⟨-, hs⟩ | ⟨-, _, hs⟩ | ⟨-, -, hs⟩ <;> simp [hs]
@[simp] theorem sequencerStep_OPY : s.sequencerStep.OPY = s.OPY := by
  rcases sequencerStep_cases s with ⟨-, hs⟩ | ⟨-, _, hs⟩ | ⟨-, -, hs⟩ <;> simp [hs]
@[simp] theorem sequencerStep_OPZ : s.sequencerStep.OPZ = s.OPZ := by
  rcases sequencerStep_cases s with ⟨-, hs⟩ | ⟨-, _, hs⟩ | ⟨-, -, hs⟩ <;> simp [hs]
@[simp] theorem sequencerStep_pending : s.sequencerStep.pending = s.pending := by
  rcases sequencerStep_cases s with ⟨-, hs⟩ | ⟨-, _, hs⟩ | ⟨-, -, hs⟩ <;> simp [hs]
@[simp] theorem sequencerStep_replies : s.sequencerStep.replies = s.replies := by
  rcases sequencerStep_cases s with ⟨-, hs⟩ | ⟨-, _, hs⟩ | ⟨-, -, hs⟩ <;> simp [hs]

end

/-! ### The commands that write each register -/

theorem instr_of_H_ne (h : (commandEffect i s).H ≠ s.H) : i = .init ∨ ∃ k, i = .wrh k := by
  cases i <;> simp [commandEffect] at h ⊢

theorem instr_of_M_ne (h : (commandEffect i s).M ≠ s.M) :
    (∃ k, i = .wrw k) ∨ ∃ j, i = .wrb j := by
  cases i <;> simp [commandEffect] at h ⊢

theorem instr_of_RESULT_ne (h : (commandEffect i s).RESULT ≠ s.RESULT) :
    (∃ k, i = .rdh k) ∨ (∃ k, i = .rdw k) ∨ (∃ k, i = .rdk k) ∨ (∃ k, i = .rdiv k) ∨
      (∃ n, i = .rotr n) ∨ (∃ n, i = .shr n) ∨
      i ∈ [Instr.ch, .maj, .bsig0, .bsig1, .ssig0, .ssig1, .add, .add3] := by
  cases i <;> simp [commandEffect] at h ⊢

theorem commandEffect_DATA (i : Instr) (s : State) : (commandEffect i s).DATA = s.DATA := by
  cases i <;> simp [commandEffect]

theorem instr_of_OPY_ne (h : (commandEffect i s).OPY ≠ s.OPY) : i = .wry := by
  cases i <;> simp [commandEffect] at h ⊢

theorem instr_of_OPZ_ne (h : (commandEffect i s).OPZ ≠ s.OPZ) : i = .wrz := by
  cases i <;> simp [commandEffect] at h ⊢

theorem instr_of_sequencerState_ne (h : (commandEffect i s).t ≠ s.t ∨
    (commandEffect i s).v ≠ s.v ∨ (commandEffect i s).W ≠ s.W) : i = .comp := by
  cases i <;> simp [commandEffect] at h ⊢

end Sys2Proof.Machine
end

section
/-! The settled statements about what can change each register: over the four agents of a step. -/

namespace Sys2Proof.Machine

/-- Settles O46: `H` is written by the update step, `INIT`, `WRH` and a reset. -/
theorem hashStateChangers : Obligations.HashStateChangers := by
  unfold Obligations.HashStateChangers
  intro s t hs hne
  rcases step_next_agent hs with ⟨hturn, p, rfl⟩ | ⟨hreset, -⟩ | ⟨i, p, hi, rfl⟩ | ⟨hsame, -⟩
  · obtain ⟨hb, ht⟩ := sequencerStep_H_of_ne hne
    exact .inr (.inr (.inl ⟨⟨hb, hturn⟩, ht⟩))
  · exact .inr (.inr (.inr hreset))
  · rcases instr_of_H_ne hne with rfl | ⟨k, rfl⟩
    · exact .inl hi
    · exact .inr (.inl ⟨k, hi⟩)
  · exact absurd hsame.H hne

/-- Settles O47: `M` is written by `WRW`, `WRB` and a reset, and by no step of the sequencer. -/
theorem blockBufferChangers : Obligations.BlockBufferChangers := by
  unfold Obligations.BlockBufferChangers
  intro s t hs hne
  rcases step_next_agent hs with ⟨-, p, rfl⟩ | ⟨hreset, -⟩ | ⟨i, p, hi, rfl⟩ | ⟨hsame, -⟩
  · exact absurd (sequencerStep_M s) hne
  · exact .inr (.inr hreset)
  · rcases instr_of_M_ne hne with ⟨k, rfl⟩ | ⟨j, rfl⟩
    · exact .inl ⟨k, hi⟩
    · exact .inr (.inl ⟨j, hi⟩)
  · exact absurd hsame.M hne

/-- Settles O48: `RESULT` is written by the reading and the ALU commands and a reset. -/
theorem resultChangers : Obligations.ResultChangers := by
  unfold Obligations.ResultChangers
  intro s t hs hne
  rcases step_next_agent hs with ⟨-, p, rfl⟩ | ⟨hreset, -⟩ | ⟨i, p, hi, rfl⟩ | ⟨hsame, -⟩
  · exact absurd (sequencerStep_RESULT s) hne
  · simp only [hreset, or_true]
  · rcases instr_of_RESULT_ne hne with ⟨k, rfl⟩ | ⟨k, rfl⟩ | ⟨k, rfl⟩ | ⟨k, rfl⟩ | ⟨n, rfl⟩ |
      ⟨n, rfl⟩ | halu
    · exact .inl ⟨k, hi⟩
    · exact .inr (.inl ⟨k, hi⟩)
    · exact .inr (.inr (.inl ⟨k, hi⟩))
    · exact .inr (.inr (.inr (.inl ⟨k, hi⟩)))
    · exact .inr (.inr (.inr (.inr (.inl ⟨n, hi⟩))))
    · exact .inr (.inr (.inr (.inr (.inr (.inl ⟨n, hi⟩)))))
    · exact .inr (.inr (.inr (.inr (.inr (.inr (.inl ⟨i, halu, hi⟩))))))
  · exact absurd hsame.RESULT hne

/-- Settles O49: an access on the bus side writes `DATA` alone, and of the commands only `WRY`
and `WRZ` write an operand register. -/
theorem operandRegisterChangers : Obligations.OperandRegisterChangers := by
  unfold Obligations.OperandRegisterChangers
  intro s t hs
  rcases step_next_agent hs with ⟨-, p, rfl⟩ | ⟨hreset, -⟩ | ⟨i, p, hi, rfl⟩ | ⟨hsame, hdata⟩
  · exact ⟨(absurd (sequencerStep_DATA s) ·), (absurd (sequencerStep_OPY s) ·),
      (absurd (sequencerStep_OPZ s) ·)⟩
  · exact ⟨fun _ => .inr hreset, fun _ => .inr hreset, fun _ => .inr hreset⟩
  · exact ⟨(absurd (commandEffect_DATA i s) ·), fun hne => .inl (instr_of_OPY_ne hne ▸ hi),
      fun hne => .inl (instr_of_OPZ_ne hne ▸ hi)⟩
  · exact ⟨fun hne => .inl (hdata.resolve_left hne), (absurd hsame.OPY ·), (absurd hsame.OPZ ·)⟩

/-- Settles O50: a round step, `COMP` and a reset write the state of the sequencer. -/
theorem sequencerStateChangers : Obligations.SequencerStateChangers := by
  unfold Obligations.SequencerStateChangers
  intro s t hs hne
  rcases step_next_agent hs with ⟨hturn, p, rfl⟩ | ⟨hreset, -⟩ | ⟨i, p, hi, rfl⟩ | ⟨hsame, -⟩
  · obtain ⟨hb, ht⟩ := sequencerStep_round_of_ne hne
    exact .inr (.inl ⟨⟨hb, hturn⟩, ht⟩)
  · exact .inr (.inr hreset)
  · exact .inl (instr_of_sequencerState_ne hne ▸ hi)
  · simp [hsame.t, hsame.v, hsame.W] at hne

end Sys2Proof.Machine
end

section
/-! What every step keeps: the invariants of the control bits (R39) and of the compression
(R167). -/

namespace Sys2Proof.Machine

variable {s t u : State} {i : Instr}

theorem SameEngine.compressionInv (h : SameEngine s u) (hs : CompressionInv s) :
    CompressionInv u :=
  (compressionInv_congr h.BUSY h.H h.M h.W h.v h.t).2 hs

theorem SameEngine.controlInv (h : SameEngine s u) (hs : ControlInv s) : ControlInv u := by
  rw [ControlInv, h.BUSY, h.DONE, h.t]
  exact hs

theorem commandEffect_idle (hi : i ≠ .comp) (hb : s.BUSY = false) :
    (commandEffect i s).BUSY = false := by
  simp [← Bool.not_eq_true, commandEffect_BUSY_iff, hi, hb]

theorem commandEffect_t (hi : i ≠ .comp) (s : State) : (commandEffect i s).t = s.t := by
  by_contra hne
  exact hi (instr_of_sequencerState_ne (.inl hne))

theorem loadSchedule_getElem_of_lt (M : Vector Byte 64) (W : Vector Word 64) (i : Fin 16) :
    (loadSchedule M W)[i.val] = blockWord M i := by
  simp [loadSchedule]

theorem loadSchedule_getElem_of_ge (M : Vector Byte 64) (W : Vector Word 64) {i : Fin 64}
    (hi : 16 ≤ i.val) : (loadSchedule M W)[i.val] = W[i.val] := by
  simp [loadSchedule, Nat.not_lt.2 hi]

theorem compressionInv_acceptComp (s : State) : CompressionInv s.acceptComp := by
  intro _
  simp only [acceptComp_v, acceptComp_H, acceptComp_M, acceptComp_W, acceptComp_t]
  refine ⟨(varsAfter_zero s.H (schedule s.M)).symm, fun i hi => ?words⟩
  case words =>
    have hi16 : i.val < 16 := by simpa using hi
    exact (loadSchedule_getElem_of_lt s.M s.W ⟨i.val, hi16⟩).trans
      (schedule_getElem_of_lt s.M ⟨i.val, hi16⟩).symm

/-- R165 on R167: the round computes the schedule's own word, which no later round changes. -/
theorem compressionInv_roundStep (r : Fin 64) (hr : s.t.val = r.val) (hb : s.BUSY = true)
    (h : CompressionInv s) : CompressionInv (s.roundStep r) := by
  obtain ⟨hv, hW⟩ := h hb
  rw [hr] at hv hW
  have hword : scheduleWord s.W r = (schedule s.M)[r.val] := by
    rw [schedule_getElem_eq_scheduleWord, scheduleWord_congr hW]
  intro _
  simp only [roundStep_v, roundStep_H, roundStep_M, roundStep_W, roundStep_t, Fin.val_succ, hword]
  refine ⟨?vars, fun i hi => ?words⟩
  case vars => rw [hv, varsAfter_succ _ _ r.isLt]
  case words =>
    rcases eq_or_ne r.val i.val with heq | hne
    · simp only [← heq, Vector.getElem_set_self]
    · rw [Vector.getElem_set_ne r.isLt i.isLt hne]
      exact hW i (by omega)

theorem compressionInv_sequencerStep (h : CompressionInv s) : CompressionInv s.sequencerStep := by
  rcases sequencerStep_cases s with ⟨-, hs⟩ | ⟨hb, ht, hs⟩ | ⟨-, -, hs⟩ <;> rw [hs]
  · exact h
  · exact compressionInv_roundStep ⟨s.t.val, ht⟩ rfl hb h
  · exact compressionInv_of_idle (updateStep_BUSY s)

theorem compressionInv_commandEffect (i : Instr) (hb : s.BUSY = false) :
    CompressionInv (commandEffect i s) := by
  rcases eq_or_ne i .comp with rfl | hi
  · exact compressionInv_acceptComp s
  · exact compressionInv_of_idle (commandEffect_idle hi hb)

/-- R167 over one step: a round carries the invariant on, `COMP` sets it up, and every other agent
leaves what it speaks of or an idle engine. -/
theorem compressionInv_of_step (h : CompressionInv s) (hs : step s = .next t) :
    CompressionInv t := by
  rcases step_next_agent hs with ⟨-, p, rfl⟩ | ⟨-, p, rfl⟩ | ⟨i, p, hi, rfl⟩ | ⟨hsame, -⟩
  · exact compressionInv_sequencerStep h
  · exact compressionInv_of_idle rfl
  · obtain ⟨-, -, -, hb, -⟩ := hi
    exact compressionInv_commandEffect i hb
  · exact hsame.compressionInv h

theorem controlInv_sequencerStep (h : ControlInv s) : ControlInv s.sequencerStep := by
  rcases sequencerStep_cases s with ⟨-, hs⟩ | ⟨hb, ht, hs⟩ | ⟨-, ht, hs⟩ <;> rw [hs]
  · exact h
  · have hD : s.DONE = false := h.2 hb
    simp [ControlInv, hb, hD]
  · have ht64 : s.t = 64 := Fin.ext ht
    simp [ControlInv, ht64]

theorem controlInv_commandEffect (i : Instr) (hb : s.BUSY = false) (h : ControlInv s) :
    ControlInv (commandEffect i s) := by
  rcases eq_or_ne i .comp with rfl | hi
  · simp [ControlInv, commandEffect]
  · have ht : s.t = 0 ∨ s.t = 64 := h.1 hb
    simp [ControlInv, commandEffect_idle hi hb, commandEffect_t hi, ht]

/-- R39 over one step: the update leaves `t` at 64, `COMP` sets it to 0 and clears `DONE`. -/
theorem controlInv_of_step (h : ControlInv s) (hs : step s = .next t) : ControlInv t := by
  rcases step_next_agent hs with ⟨-, p, rfl⟩ | ⟨-, p, rfl⟩ | ⟨i, p, hi, rfl⟩ | ⟨hsame, -⟩
  · exact controlInv_sequencerStep h
  · exact ⟨fun _ => .inl rfl, fun hb => by cases hb⟩
  · obtain ⟨-, -, -, hb, -⟩ := hi
    exact controlInv_commandEffect i hb h
  · exact hsame.controlInv h

end Sys2Proof.Machine
end

section
/-! The settled statements about the invariants. -/

namespace Sys2Proof.Machine

/-- Settles O39: from the invariant over one step. -/
theorem stepKeepsCompressionInvariant : Obligations.StepKeepsCompressionInvariant := by
  unfold Obligations.StepKeepsCompressionInvariant
  exact fun s t h hs => compressionInv_of_step h hs

/-- Settles O38: from the invariant over one step. -/
theorem stepKeepsControlInvariant : Obligations.StepKeepsControlInvariant := by
  unfold Obligations.StepKeepsControlInvariant
  exact fun s t h hs => controlInv_of_step h hs

/-- Settles O40: the reset state is idle, with `t = 0`. -/
theorem resetMeetsInvariants : Obligations.ResetMeetsInvariants := by
  unfold Obligations.ResetMeetsInvariants
  exact ⟨⟨fun _ => .inl rfl, fun hb => by cases hb⟩, compressionInv_of_idle rfl⟩

end Sys2Proof.Machine
end

section
/-! A running compression under the host's accesses and the sequencer's turns, in any order (R167,
R239). -/

namespace Sys2Proof.Machine

variable {s t u : State} {e : Event} {es : List Event} {n : Nat}

theorem turns_cons_turn (es : List Event) : turns (.turn :: es) = turns es + 1 := by
  simp [turns]

theorem turns_cons_of_ne (es : List Event) (h : e ≠ .turn) : turns (e :: es) = turns es := by
  simp [turns, h]

theorem step_of_performEvent (h : performEvent e s = .next u) :
    step (s.setPending [e]) = .next (u.setPending []) :=
  (step_of_cons rfl).trans (performEvent_setPending h [])

/-- R212, R234: while busy, no access of the window reaches the compression. -/
theorem sameEngine_of_busy (ho : isOrdinary e = true) (hne : e ≠ .turn) (hb : s.BUSY = true)
    (h : performEvent e s = .next u) : SameEngine s u := by
  rcases step_next_agent (step_of_performEvent h) with ⟨hturn, -⟩ | ⟨hreset, -⟩ | ⟨i, p, hi, -⟩ |
    ⟨hsame, -⟩
  · simp [hne] at hturn
  · obtain rfl : e = .reset := (resetsNext_of_cons rfl).1 hreset
    cases ho
  · obtain ⟨-, -, -, hidle, -⟩ := hi
    cases hidle.symm.trans hb
  · obtain ⟨⟩ := hsame
    constructor <;> assumption

/-- `u` is `n` rounds into the compression that a `COMP` on `s` started. -/
structure InRound (s : State) (n : Nat) (u : State) : Prop where
  BUSY : u.BUSY = true
  DONE : u.DONE = false
  t : u.t.val = n
  H : u.H = s.H
  M : u.M = s.M
  RESULT : u.RESULT = s.RESULT
  OPY : u.OPY = s.OPY
  OPZ : u.OPZ = s.OPZ
  inv : CompressionInv u

theorem inRound_acceptComp (s : State) : InRound s 0 s.acceptComp where
  BUSY := acceptComp_BUSY s
  DONE := acceptComp_DONE s
  t := congrArg Fin.val (acceptComp_t s)
  H := acceptComp_H s
  M := acceptComp_M s
  RESULT := acceptComp_RESULT s
  OPY := acceptComp_OPY s
  OPZ := acceptComp_OPZ s
  inv := compressionInv_acceptComp s

theorem InRound.of_sameEngine (h : InRound s n t) (hsame : SameEngine t u) : InRound s n u where
  BUSY := hsame.BUSY.trans h.BUSY
  DONE := hsame.DONE.trans h.DONE
  t := (congrArg Fin.val hsame.t).trans h.t
  H := hsame.H.trans h.H
  M := hsame.M.trans h.M
  RESULT := hsame.RESULT.trans h.RESULT
  OPY := hsame.OPY.trans h.OPY
  OPZ := hsame.OPZ.trans h.OPZ
  inv := hsame.compressionInv h.inv

theorem InRound.round (h : InRound s n u) (hn : n < 64) : InRound s (n + 1) u.sequencerStep := by
  have ht : u.t.val < 64 := h.t ▸ hn
  have hinv := compressionInv_sequencerStep h.inv
  rw [sequencerStep_of_round h.BUSY ht] at hinv ⊢
  exact ⟨by simp [h.BUSY], by simp [h.DONE], by simp [h.t], by simp [h.H], by simp [h.M],
    by simp [h.RESULT], by simp [h.OPY], by simp [h.OPZ], hinv⟩

theorem InRound.update (h : InRound s 64 u) : u.sequencerStep = u.updateStep :=
  sequencerStep_of_update h.BUSY h.t

theorem InRound.vars (h : InRound s 64 u) : u.v = varsAfter s.H (schedule s.M) 64 := by
  obtain ⟨hv, -⟩ := h.inv h.BUSY
  rw [hv, h.H, h.M, h.t]

theorem InRound.schedule (h : InRound s 64 u) : u.W = schedule s.M := by
  obtain ⟨-, hW⟩ := h.inv h.BUSY
  refine Vector.ext fun i hi => ?_
  rw [← h.M]
  exact hW ⟨i, hi⟩ (by rw [h.t]; omega)

/-- R166, R167: the update after round 63 writes `Compress1` of what the `COMP` found. -/
theorem InRound.updateStep_H (h : InRound s 64 u) : u.updateStep.H = compress1 s.H s.M := by
  rw [Machine.updateStep_H, h.H, h.vars, compress1]

/-- Up to 64 turns, anywhere among the accesses, count the rounds and keep the rest. -/
theorem InRound.exists_runs (h : InRound s n u) (ho : ∀ e ∈ es, isOrdinary e = true)
    (hle : n + turns es ≤ 64) : ∃ t, Runs u es t ∧ InRound s (n + turns es) t := by
  induction es generalizing n u with
  | nil => exact ⟨u, Runs.nil u, h⟩
  | cons e es ih =>
    have hoe : isOrdinary e = true := ho e List.mem_cons_self
    have hoes : ∀ e ∈ es, isOrdinary e = true := fun e he => ho e (List.mem_cons_of_mem _ he)
    by_cases hturn : e = .turn
    · subst hturn
      rw [turns_cons_turn, ← Nat.add_assoc, Nat.add_right_comm] at hle ⊢
      obtain ⟨t, hruns, ht⟩ := ih (h.round (by omega)) hoes hle
      exact ⟨t, Runs.cons rfl hruns, ht⟩
    · rw [turns_cons_of_ne es hturn] at hle ⊢
      obtain ⟨v, hv⟩ := performEvent_of_isOrdinary hoe u
      have hsame : SameEngine u v := sameEngine_of_busy hoe hturn h.BUSY hv
      obtain ⟨t, hruns, ht⟩ := ih (h.of_sameEngine hsame) hoes hle
      exact ⟨t, Runs.cons hv hruns, ht⟩

theorem performEvent_issue_of_idle (i : Instr) (hb : s.BUSY = false) :
    performEvent (issue i) s = .next (commandEffect i s) :=
  performEvent_issue (decode_encode i) hb

theorem exists_runs_comp (hb : s.BUSY = false) (ho : ∀ e ∈ es, isOrdinary e = true)
    (hle : turns es ≤ 64) : ∃ t, Runs s (issue .comp :: es) t ∧ InRound s (turns es) t := by
  obtain ⟨t, hruns, ht⟩ := (inRound_acceptComp s).exists_runs ho (by omega)
  rw [Nat.zero_add] at ht
  exact ⟨t, Runs.cons (performEvent_issue_of_idle .comp hb) hruns, ht⟩

/-- Settles O42: the state of a compression after as many rounds as there were turns. -/
theorem busyUntilSixtyFifthTurn : Obligations.BusyUntilSixtyFifthTurn := by
  unfold Obligations.BusyUntilSixtyFifthTurn
  intro s es hb ho hle
  obtain ⟨t, hruns, ht⟩ := exists_runs_comp hb ho hle
  exact ⟨t, hruns, ht.BUSY, ht.DONE, ht.t, ht.H, ht.M, ht.RESULT, ht.OPY, ht.OPZ⟩

/-- Settles O41: after 64 turns the engine is at the end of round 63, and the 65th turn is the
update. -/
theorem compressionIndependentOfInterleaving :
    Obligations.CompressionIndependentOfInterleaving := by
  unfold Obligations.CompressionIndependentOfInterleaving
  intro s es hb ho h64
  obtain ⟨u, hruns, hu⟩ := exists_runs_comp hb ho h64.le
  rw [h64] at hu
  have hturn : performEvent .turn u = .next u.updateStep := congrArg _ hu.update
  refine ⟨u.updateStep, hruns.append (Runs.cons hturn (Runs.nil _)), hu.updateStep_H, ?_⟩
  simp [hu.M, hu.schedule, hu.vars, Fin.ext_iff, hu.t]

end Sys2Proof.Machine
end

section
/-! The sequencer's turns in a row: `n` of them are the sequencer's step `n` times (R239), which
ends the compression of a busy engine after `65 − t` and does nothing to an idle one. -/

namespace Sys2Proof.Machine

variable {s : State} {n : Nat}

theorem runs_turns (n : Nat) (s : State) :
    Runs s (List.replicate n .turn) (State.sequencerStep^[n] s) := by
  induction n generalizing s with
  | zero => exact Runs.nil s
  | succ n ih =>
    rw [Function.iterate_succ_apply, List.replicate_succ]
    exact Runs.cons rfl (ih s.sequencerStep)

/-- R242: with no input left, each step is the sequencer's. -/
theorem runSteps_of_nil (n : Nat) (h : s.pending = []) :
    runSteps n s = .next (State.sequencerStep^[n] s) := by
  induction n generalizing s with
  | zero => rfl
  | succ n ih =>
    rw [Function.iterate_succ_apply, runSteps_succ_of_next n (step_of_nil h)]
    exact ih (by rw [sequencerStep_pending, h])

theorem sequencerStep_eq_self_iff (s : State) : s.sequencerStep = s ↔ s.BUSY = false := by
  refine ⟨fun h => ?_, sequencerStep_of_idle⟩
  rcases sequencerStep_cases s with ⟨hb, -⟩ | ⟨-, ht, hs⟩ | ⟨-, -, hs⟩
  · exact hb
  · have ht' : (s.roundStep ⟨s.t.val, ht⟩).t.val = s.t.val := by rw [← hs, h]
    simp at ht'
  · rw [← h, hs, updateStep_BUSY]

theorem iterate_of_idle (n : Nat) (hb : s.BUSY = false) : State.sequencerStep^[n] s = s :=
  Function.iterate_fixed (sequencerStep_of_idle hb) n

theorem iterate_of_rounds (hb : s.BUSY = true) (hn : s.t.val + n ≤ 64) :
    (State.sequencerStep^[n] s).BUSY = true ∧ (State.sequencerStep^[n] s).t.val = s.t.val + n := by
  induction n with
  | zero => exact ⟨hb, rfl⟩
  | succ n ih =>
    obtain ⟨hbn, htn⟩ := ih (by omega)
    rw [Function.iterate_succ_apply', sequencerStep_of_round hbn (by omega)]
    exact ⟨hbn, by simp [htn, Nat.add_assoc]⟩

/-- The last rounds, the update, and nothing more. -/
theorem iterate_of_update (hb : s.BUSY = true) (hn : 65 ≤ s.t.val + n) :
    State.sequencerStep^[n] s = (State.sequencerStep^[64 - s.t.val] s).updateStep := by
  have hlt := s.t.isLt
  obtain ⟨hb64, ht64⟩ := iterate_of_rounds (n := 64 - s.t.val) hb (by omega)
  obtain ⟨k, rfl⟩ : ∃ k, n = k + 1 + (64 - s.t.val) := ⟨n - (65 - s.t.val), by omega⟩
  rw [Function.iterate_add_apply, Function.iterate_succ_apply,
    sequencerStep_of_update hb64 (by omega), iterate_of_idle k (updateStep_BUSY _)]

theorem iterate_BUSY_eq_false_iff (hb : s.BUSY = true) :
    (State.sequencerStep^[n] s).BUSY = false ↔ 65 ≤ s.t.val + n := by
  refine ⟨fun hidle => ?_, fun hn => by rw [iterate_of_update hb hn, updateStep_BUSY]⟩
  by_contra hn
  obtain ⟨hbn, -⟩ := iterate_of_rounds (n := n) hb (by omega)
  exact absurd (hidle.symm.trans hbn) Bool.false_ne_true

/-- Settles O44: the last of the `65 − t` steps is the update. -/
theorem sequencerFinishesAlone : Obligations.SequencerFinishesAlone := by
  unfold Obligations.SequencerFinishesAlone
  intro s hp hb
  have hn : 65 ≤ s.t.val + (65 - s.t.val) := by omega
  refine ⟨_, runSteps_of_nil (65 - s.t.val) hp, (iterate_BUSY_eq_false_iff hb).2 hn, ?_⟩
  rw [iterate_of_update hb hn, updateStep_DONE]

theorem sequencerSteps_eq_ite (i : Instr) : sequencerSteps i = if i = .comp then 65 else 0 := by
  cases i <;> simp [sequencerSteps]

/-- R239: after a command on an idle engine the sequencer has `sequencerSteps i` steps to do. -/
theorem iterate_commandEffect_idle_iff (i : Instr) (hb : s.BUSY = false) :
    (State.sequencerStep^[n] (commandEffect i s)).BUSY = false ↔ sequencerSteps i ≤ n := by
  rcases eq_or_ne i .comp with rfl | hi
  · simpa [commandEffect, sequencerSteps_eq_ite] using
      iterate_BUSY_eq_false_iff (n := n) (acceptComp_BUSY s)
  · have hidle := commandEffect_idle hi hb
    simp [iterate_of_idle n hidle, hidle, sequencerSteps_eq_ite, hi]

/-- Settles O45: a turn changes the state exactly if the engine is busy. -/
theorem stepCounts : Obligations.StepCounts := by
  unfold Obligations.StepCounts
  intro s t i hb hexec
  obtain rfl : commandEffect i s = t := Host.Outcome.next.inj ((exec_of_idle i hb).symm.trans hexec)
  refine ⟨sequencerSteps_eq_ite i, rfl, fun n => ?turns⟩
  case turns =>
    refine ⟨(State.sequencerStep^[n] (commandEffect i s)).setPending [], _, runs_turns n _,
      Runs.cons rfl (Runs.nil _), rfl, sequencerStep_pending _, ?_⟩
    rw [sequencerStep_eq_self_iff]
    exact iterate_commandEffect_idle_iff i hb

end Sys2Proof.Machine
end

section
/-! `WAIT` (R83): where it reads and ends, from any state and for any gaps (log entry 14). -/

namespace Sys2Proof.Machine

variable {s t : State} {n : Nat} {gaps : List Nat}

/-- The state with no input left and these replies. -/
def State.withReplies (s : State) (rs : List BusReply) : State :=
  { s with pending := [], replies := rs }

@[simp] theorem withReplies_BUSY (s : State) (rs : List BusReply) :
    (s.withReplies rs).BUSY = s.BUSY := rfl
@[simp] theorem withReplies_DONE (s : State) (rs : List BusReply) :
    (s.withReplies rs).DONE = s.DONE := rfl
@[simp] theorem withReplies_replies (s : State) (rs : List BusReply) :
    (s.withReplies rs).replies = rs := rfl
@[simp] theorem withReplies_withReplies (s : State) (rs rs' : List BusReply) :
    (s.withReplies rs).withReplies rs' = s.withReplies rs' := rfl
@[simp] theorem withReplies_flag (s : State) (rs : List BusReply) (F : ErrFlag) :
    (s.withReplies rs).flag F = s.flag F := by
  cases F <;> rfl

theorem sequencerStep_withReplies (s : State) (rs : List BusReply) :
    (s.withReplies rs).sequencerStep = s.sequencerStep.withReplies rs := by
  rcases sequencerStep_cases s with ⟨hb, hs⟩ | ⟨hb, ht, hs⟩ | ⟨hb, ht, hs⟩ <;> rw [hs]
  · exact sequencerStep_of_idle (s := s.withReplies rs) hb
  · exact sequencerStep_of_round (s := s.withReplies rs) hb ht
  · exact sequencerStep_of_update (s := s.withReplies rs) hb ht

theorem iterate_withReplies (n : Nat) (s : State) (rs : List BusReply) :
    State.sequencerStep^[n] (s.withReplies rs) = (State.sequencerStep^[n] s).withReplies rs :=
  (Function.Semiconj.iterate_right (f := (State.withReplies · rs))
    (fun s => (sequencerStep_withReplies s rs).symm) n s).symm

@[simp] theorem iterate_replies (n : Nat) (s : State) :
    (State.sequencerStep^[n] s).replies = s.replies := by
  induction n with
  | zero => rfl
  | succ n ih => rw [Function.iterate_succ_apply', sequencerStep_replies, ih]

@[simp] theorem iterate_flag (n : Nat) (s : State) (F : ErrFlag) :
    (State.sequencerStep^[n] s).flag F = s.flag F := by
  induction n with
  | zero => rfl
  | succ n ih => rw [Function.iterate_succ_apply', flag_sequencerStep, ih]

/-- What `WAIT` has read after `n` turns. -/
def afterRead (n : Nat) (s : State) : State :=
  (State.sequencerStep^[n] s).withReplies
    (⟨4, statusWord (State.sequencerStep^[n] s)⟩ :: s.replies)

theorem hostWait_of_read_idle (gaps : List Nat) (h : (State.sequencerStep^[n] s).BUSY = false) :
    hostWait (n :: gaps) s = .ok (afterRead n s) := by
  rw [hostWait_cons gaps (runs_turns n s), if_neg (by simp [h]), afterRead, ← iterate_replies n s]
  rfl

theorem hostWait_of_read_busy (gaps : List Nat) (h : (State.sequencerStep^[n] s).BUSY = true) :
    hostWait (n :: gaps) s = hostWait gaps (afterRead n s) := by
  rw [hostWait_cons gaps (runs_turns n s), if_pos h, afterRead, ← iterate_replies n s]
  rfl

theorem iterate_afterRead (n k : Nat) (s : State) :
    State.sequencerStep^[k] (afterRead n s) =
      (State.sequencerStep^[n + k] s).withReplies (afterRead n s).replies := by
  rw [Nat.add_comm, Function.iterate_add_apply]
  exact iterate_withReplies k _ _

/-- While the engine is still busy after all the turns, the loop goes on. -/
theorem hostWait_of_short (h : (State.sequencerStep^[gaps.sum] s).BUSY = true) :
    hostWait gaps s = .error .waiting := by
  induction gaps generalizing s with
  | nil => rfl
  | cons n gaps ih =>
    rw [List.sum_cons] at h
    have hread : (State.sequencerStep^[n] s).BUSY = true := by
      by_contra hidle
      rw [Nat.add_comm, Function.iterate_add_apply,
        iterate_of_idle _ (Bool.eq_false_of_not_eq_true hidle)] at h
      exact hidle h
    rw [hostWait_of_read_busy gaps hread, ih (by rw [iterate_afterRead]; exact h)]

/-- Where the engine is idle after all the turns, some read ends the loop. -/
theorem exists_hostWait (hne : gaps ≠ []) (h : (State.sequencerStep^[gaps.sum] s).BUSY = false) :
    ∃ t, hostWait gaps s = .ok t := by
  induction gaps generalizing s with
  | nil => exact absurd rfl hne
  | cons n gaps ih =>
    rw [List.sum_cons] at h
    cases hread : (State.sequencerStep^[n] s).BUSY with
    | false => exact ⟨_, hostWait_of_read_idle gaps hread⟩
    | true =>
      rw [hostWait_of_read_busy gaps hread]
      refine ih ?_ (by rw [iterate_afterRead]; exact h)
      rintro rfl
      exact absurd (h.symm.trans hread) Bool.false_ne_true

/-- Where `WAIT` ends, only turns have happened beside its reads, of which the last alone showed an
idle engine. -/
theorem hostWait_ok (h : hostWait gaps s = .ok t) :
    ∃ k r rs, t = (State.sequencerStep^[k] s).withReplies (r :: rs ++ s.replies) ∧
      t.BUSY = false ∧ r.value.getLsbD 0 = false ∧ rs.length < gaps.length ∧
      ∀ q ∈ rs, q.value.getLsbD 0 = true := by
  induction gaps generalizing s with
  | nil => cases h
  | cons n gaps ih =>
    have hbit : (statusWord (State.sequencerStep^[n] s)).getLsbD 0 =
        (State.sequencerStep^[n] s).BUSY := by rw [statusWord_getLsbD, if_pos rfl]
    cases hread : (State.sequencerStep^[n] s).BUSY with
    | false =>
      rw [hostWait_of_read_idle gaps hread] at h
      cases h
      exact ⟨n, _, [], rfl, hread, hbit.trans hread, by simp, by simp⟩
    | true =>
      rw [hostWait_of_read_busy gaps hread] at h
      obtain ⟨k, r, rs, rfl, hidle, hr, hlen, hrs⟩ := ih h
      refine ⟨n + k, r, rs ++ [⟨4, statusWord (State.sequencerStep^[n] s)⟩], ?_, hidle, hr,
        by simpa using hlen, fun q hq => ?_⟩
      · rw [iterate_afterRead]
        simp [afterRead]
      · rcases List.mem_append.1 hq with hq | hq
        · exact hrs q hq
        · rw [List.mem_singleton.1 hq]
          exact hbit.trans hread

/-- A `WAIT` that ends on an engine that was busy ends after the update (R166). -/
theorem hostWait_ok_of_busy (hb : s.BUSY = true) (h : hostWait gaps s = .ok t) :
    ∃ rs, t = (State.sequencerStep^[64 - s.t.val] s).updateStep.withReplies rs := by
  obtain ⟨k, r, rs, rfl, hidle, -⟩ := hostWait_ok h
  exact ⟨_, by rw [iterate_of_update hb ((iterate_BUSY_eq_false_iff hb).1 hidle)]⟩

/-- Settles O58: the three clauses are where `WAIT` ends, its one read on an idle engine, and the
two sides of the bound. -/
theorem waitLoopsWhileBusy : Obligations.WaitLoopsWhileBusy := by
  unfold Obligations.WaitLoopsWhileBusy
  refine ⟨fun s t gaps h => ?ends, fun s n gaps hb => ?idle, fun s gaps hb =>
    ⟨fun hsum => ?long, fun hsum => ?short⟩⟩
  case ends =>
    obtain ⟨k, r, rs, ht, hidle, hr, hlen, hrs⟩ := hostWait_ok h
    exact ⟨hidle, r, rs, by rw [ht, withReplies_replies], hr, hlen, hrs⟩
  case idle =>
    have hn := iterate_of_idle n hb
    rw [hostWait_of_read_idle gaps (by rw [hn, hb]), afterRead, hn]
    rfl
  case long =>
    have hlt := s.t.isLt
    have hne : gaps ≠ [] := by
      rintro rfl
      simp only [List.sum_nil] at hsum
      omega
    obtain ⟨t, ht⟩ := exists_hostWait (s := s) hne ((iterate_BUSY_eq_false_iff hb).2 (by omega))
    obtain ⟨rs, rfl⟩ := hostWait_ok_of_busy hb ht
    exact ⟨_, ht, by simp, by simp⟩
  case short => exact hostWait_of_short (iterate_of_rounds hb (by omega)).1

end Sys2Proof.Machine
end

section
/-! The block buffer byte by byte and word by word (R64 to R66). -/

namespace Sys2Proof.Machine

/-- R64: bit `b` of a block word stands in its byte `3 − b div 8`, counted in message order. -/
theorem blockWord_getLsbD (M : Vector Byte 64) (i : Fin 16) {b : Nat} (hb : b < 32) :
    (blockWord M i).getLsbD b = (M[4 * i.val + (3 - b / 8)]'(by omega)).getLsbD (b % 8) := by
  have hbyte : b / 8 = 0 ∨ b / 8 = 1 ∨ b / 8 = 2 ∨ b / 8 = 3 := by omega
  rw [blockWord, concatBytes_getLsbD]
  rcases hbyte with h | h | h | h
  · have hmod : b % 8 = b := by omega
    simp [h, hmod, show b < 8 by omega]
  · have hmod : b % 8 = b - 8 := by omega
    simp [h, hmod, show ¬b < 8 by omega, show b < 16 by omega]
  · have hmod : b % 8 = b - 16 := by omega
    simp [h, hmod, show ¬b < 8 by omega, show ¬b < 16 by omega, show b < 24 by omega]
  · have hmod : b % 8 = b - 24 := by omega
    simp [h, hmod, show ¬b < 8 by omega, show ¬b < 16 by omega, show ¬b < 24 by omega]

theorem byteOfWord_getLsbD (v : Word) (k b : Nat) :
    (byteOfWord v k).getLsbD b = (decide (b < 8) && v.getLsbD (24 - 8 * k + b)) := by
  rw [byteOfWord, BitVec.getLsbD_extractLsb']

/-- R65: the bytes of a block word are the block's. -/
theorem byteOfWord_blockWord (M : Vector Byte 64) (i : Fin 16) {k : Nat} (hk : k < 4) :
    byteOfWord (blockWord M i) k = M[4 * i.val + k]'(by omega) := by
  refine BitVec.eq_of_getLsbD_eq fun b hb => ?_
  have hdiv : 3 - (24 - 8 * k + b) / 8 = k := by omega
  have hmod : (24 - 8 * k + b) % 8 = b := by omega
  rw [byteOfWord_getLsbD, blockWord_getLsbD M i (by omega)]
  simp [hb, hdiv, hmod]

/-- R65, R145: what a stored word does to each byte. -/
theorem putBlockWord_getElem (M : Vector Byte 64) (i : Fin 16) (v : Word) (k : Fin 64) :
    (putBlockWord M i v)[k.val] =
      if k.val / 4 = i.val then byteOfWord v (k.val % 4) else M[k.val] := by
  simp only [putBlockWord, Vector.getElem_set]
  by_cases hk : k.val / 4 = i.val
  · have hmod : k.val = 4 * i.val + k.val % 4 := by omega
    have hlt : k.val % 4 < 4 := Nat.mod_lt _ (by decide)
    rw [if_pos hk]
    generalize k.val % 4 = m at hmod hlt
    simp only [hmod]
    interval_cases m <;> simp
  · rw [if_neg hk, if_neg (by omega), if_neg (by omega), if_neg (by omega), if_neg (by omega)]

theorem putBlockWord_getElem_self (M : Vector Byte 64) (i : Fin 16) (v : Word) {k : Nat}
    (hk : k < 4) : (putBlockWord M i v)[4 * i.val + k]'(by omega) = byteOfWord v k := by
  have hdiv : (4 * i.val + k) / 4 = i.val := by omega
  have hmod : (4 * i.val + k) % 4 = k := by omega
  have h := putBlockWord_getElem M i v ⟨4 * i.val + k, by omega⟩
  simpa only [hdiv, hmod, if_true] using h

/-- R65, R66: a stored word, with its byte `k` replaced, reads back as the mixture. -/
theorem blockWord_putBlockWord_set_getLsbD (M : Vector Byte 64) (i : Fin 16) (v x : Word)
    (k : Fin 4) {b : Nat} (hb : b < 32) :
    (blockWord ((putBlockWord M i v).set (4 * i.val + k.val) (lowByte x) (by omega)) i).getLsbD b =
      if 24 - 8 * k.val ≤ b ∧ b ≤ 31 - 8 * k.val then x.getLsbD (b - (24 - 8 * k.val))
      else v.getLsbD b := by
  have hlt : b % 8 < 8 := Nat.mod_lt _ (by decide)
  rw [blockWord_getLsbD _ i hb, Vector.getElem_set]
  by_cases hk : b / 8 + k.val = 3
  · have hmod : b - (24 - 8 * k.val) = b % 8 := by omega
    rw [if_pos (by omega), if_pos (by omega), hmod, lowByte, BitVec.getLsbD_extractLsb']
    simp [hlt]
  · have hadd : 24 - 8 * (3 - b / 8) + b % 8 = b := by omega
    rw [if_neg (by omega), if_neg (by omega), putBlockWord_getElem_self M i v (by omega),
      byteOfWord_getLsbD, hadd]
    simp [hlt]

/-- R65, R146: what is stored as a word is read back. -/
theorem blockWord_putBlockWord (M : Vector Byte 64) (i : Fin 16) (v : Word) :
    blockWord (putBlockWord M i v) i = v := by
  refine BitVec.eq_of_getLsbD_eq fun b hb => ?_
  have hlt : b % 8 < 8 := Nat.mod_lt _ (by decide)
  have hadd : 24 - 8 * (3 - b / 8) + b % 8 = b := by omega
  rw [blockWord_getLsbD _ i hb, putBlockWord_getElem_self M i v (by omega), byteOfWord_getLsbD,
    hadd]
  simp [hlt]

/-- R10, R64: the value of four bytes, the most significant first. -/
theorem concatBytes_toNat (b0 b1 b2 b3 : Byte) :
    (concatBytes b0 b1 b2 b3).toNat =
      b0.toNat * 2 ^ 24 + b1.toNat * 2 ^ 16 + b2.toNat * 2 ^ 8 + b3.toNat := by
  have h1 := b1.isLt
  have h2 := b2.isLt
  have h3 := b3.isLt
  rw [concatBytes, BitVec.toNat_cast, BitVec.toNat_append, ← Nat.shiftLeft_add_eq_or_of_lt h3,
    BitVec.toNat_append, ← Nat.shiftLeft_add_eq_or_of_lt h2, BitVec.toNat_append,
    ← Nat.shiftLeft_add_eq_or_of_lt h1]
  simp only [Nat.shiftLeft_eq]
  omega

end Sys2Proof.Machine
end

section
/-! The settled statements about the transfer commands and about the acceptance of `COMP`. What a command leaves unchanged is `exec_of_idle`: `setM`,
`setRESULT` and `acceptComp` are the updates of the fields they name. -/

namespace Sys2Proof.Machine

/-- Settles O29: `exec` of each command on an idle engine; `WRH` sets one word of `H`. -/
theorem registerTransfers : Obligations.RegisterTransfers := by
  unfold Obligations.RegisterTransfers
  refine fun s hb => ⟨exec_of_idle .nop hb, exec_of_idle .init hb, fun i => ?wrh,
    fun i => exec_of_idle (.rdh i) hb, exec_of_idle .wry hb, exec_of_idle .wrz hb⟩
  case wrh =>
    exact ⟨s.H.set i.val s.DATA, exec_of_idle (.wrh i) hb, Vector.getElem_set_self i.isLt,
      fun k hk => Vector.getElem_set_ne i.isLt k.isLt (Fin.val_ne_of_ne hk.symm)⟩

/-- Settles O30: the bytes of the stored word by their place. -/
theorem wrwStoresBigEndian : Obligations.WrwStoresBigEndian := by
  unfold Obligations.WrwStoresBigEndian
  intro s i hb
  have hbyte (k : Nat) (hk : k < 4) := putBlockWord_getElem_self s.M i s.DATA hk
  refine ⟨putBlockWord s.M i s.DATA, exec_of_idle (.wrw i) hb, hbyte 0 (by decide),
    hbyte 1 (by decide), hbyte 2 (by decide), hbyte 3 (by decide), fun k hk => ?others⟩
  case others => rw [putBlockWord_getElem, if_neg hk]

/-- Settles O31: one byte of the buffer is set. -/
theorem wrbStoresOneByte : Obligations.WrbStoresOneByte := by
  unfold Obligations.WrbStoresOneByte
  exact fun s j hb => ⟨s.M.set j.val (lowByte s.DATA), exec_of_idle (.wrb j) hb,
    Vector.getElem_set_self j.isLt,
    fun k hk => Vector.getElem_set_ne j.isLt k.isLt (Fin.val_ne_of_ne hk.symm)⟩

/-- Settles O32: the value of four concatenated bytes. -/
theorem rdwReadsBigEndian : Obligations.RdwReadsBigEndian := by
  unfold Obligations.RdwReadsBigEndian
  exact fun s i hb => ⟨blockWord s.M i, exec_of_idle (.rdw i) hb, concatBytes_toNat _ _ _ _⟩

/-- Settles O36: the loaded schedule by its two ranges of words. -/
theorem compAcceptance : Obligations.CompAcceptance := by
  unfold Obligations.CompAcceptance
  exact fun s hb => ⟨loadSchedule s.M s.W, exec_of_idle .comp hb,
    loadSchedule_getElem_of_lt s.M s.W, fun i hi => loadSchedule_getElem_of_ge s.M s.W hi⟩

end Sys2Proof.Machine
end

section
/-! Runs in which no access is refused, and what the pseudo-instructions of R83 leave on an idle
engine. -/

namespace Sys2Proof.Machine

variable {s t u : State} {e : Event} {es fs : List Event}

/-- The inputs `es`, performed from `s`, end in `t` and none of them raises an error (R197). -/
def QuietRun (s : State) (es : List Event) (t : State) : Prop :=
  Runs s es t ∧ raisesWithin es.length (s.setPending es) = false

theorem QuietRun.runs (h : QuietRun s es t) : Runs s es t := by
  obtain ⟨hruns, -⟩ := h
  exact hruns

theorem QuietRun.nil (s : State) : QuietRun s [] s := ⟨Runs.nil s, rfl⟩

theorem QuietRun.append (h : QuietRun s es u) (h' : QuietRun u fs t) :
    QuietRun s (es ++ fs) t := by
  obtain ⟨hr, hq⟩ := h
  obtain ⟨hr', hq'⟩ := h'
  exact ⟨hr.append hr', by rw [raisesWithin_append hr, hq, hq', Bool.or_false]⟩

theorem quietRun_single (h : performEvent e s = .next t)
    (hq : errorRaised (s.setPending [e]) = none) : QuietRun s [e] t := by
  refine ⟨Runs.cons h (Runs.nil t), ?_⟩
  rw [raisesWithin_cons h, hq]
  rfl

/-- Both runners of the host programs perform a quiet run. -/
theorem QuietRun.run_eq_ok (h : QuietRun s es t) {run : List Event → State → Except HostStop State}
    (hrun : run = hostRun ∨ run = checkedRun) : run es s = .ok (t.setPending []) := by
  obtain ⟨hr, hq⟩ := h
  rcases hrun with rfl | rfl
  · exact hostRun_of_runs hr
  · rw [checkedRun_of_quiet hq, hostRun_of_runs hr]

theorem quietRun_writeDATA (v : Word) (s : State) : QuietRun s [writeDATA v] (s.setDATA v) :=
  quietRun_single rfl (errorRaised_of_admitted_write rfl rfl (by decide))

theorem quietRun_readRESULT (s : State) : QuietRun s [readRESULT] (s.pushReply ⟨4, s.RESULT⟩) :=
  quietRun_single rfl rfl

theorem quietRun_readSTATUS (s : State) : QuietRun s [readSTATUS] (s.pushReply ⟨4, statusWord s⟩) :=
  quietRun_single rfl rfl

theorem quietRun_issue (i : Instr) (hb : s.BUSY = false) :
    QuietRun s [issue i] (commandEffect i s) := by
  refine quietRun_single (performEvent_issue_of_idle i hb) ?_
  rw [errorRaised_of_write_CMD rfl, decode_encode]
  simp [hb]

/-- R83: the pseudo-instructions that write `DATA` and then a command. -/
theorem quietRun_load (v : Word) (i : Instr) (hb : s.BUSY = false) :
    QuietRun s [writeDATA v, issue i] (commandEffect i (s.setDATA v)) :=
  (quietRun_writeDATA v s).append (quietRun_issue (s := s.setDATA v) i hb)

/-- R83: the pseudo-instructions that write a command and then read `RESULT`. -/
theorem quietRun_fetch (i : Instr) (hb : s.BUSY = false) :
    QuietRun s [issue i, readRESULT]
      ((commandEffect i s).pushReply ⟨4, (commandEffect i s).RESULT⟩) :=
  (quietRun_issue i hb).append (quietRun_readRESULT _)

/-- A loop of the host whose body runs quietly from an idle engine and leaves it idle. -/
theorem quietRun_flatMap {α : Type} {body : α → List Event} {g : State → α → State}
    (hbody : ∀ s a, s.BUSY = false → QuietRun s (body a) (g s a) ∧ (g s a).BUSY = false)
    (l : List α) (hb : s.BUSY = false) :
    QuietRun s (l.flatMap body) (l.foldl g s) ∧ (l.foldl g s).BUSY = false := by
  induction l generalizing s with
  | nil => exact ⟨QuietRun.nil s, hb⟩
  | cons a l ih =>
    obtain ⟨ha, hga⟩ := hbody s a hb
    obtain ⟨hl, hgl⟩ := ih hga
    exact ⟨ha.append hl, hgl⟩

/-! ### Loading a block -/

/-- The block buffer after the words `l` of block `B` have been stored. -/
def storeWords (B : Vector Byte 64) (l : List (Fin 16)) (M : Vector Byte 64) : Vector Byte 64 :=
  l.foldl (fun M i => putBlockWord M i (blockWord B i)) M

theorem putBlockWord_blockWord_getElem (M B : Vector Byte 64) (i : Fin 16) (k : Fin 64) :
    (putBlockWord M i (blockWord B i))[k.val] =
      if k.val / 4 = i.val then B[k.val] else M[k.val] := by
  rw [putBlockWord_getElem]
  split
  case isTrue hk =>
    have hadd : 4 * i.val + k.val % 4 = k.val := by omega
    rw [byteOfWord_blockWord B i (Nat.mod_lt _ (by decide))]
    simp only [hadd]
  case isFalse => rfl

theorem storeWords_getElem (B : Vector Byte 64) (l : List (Fin 16)) (M : Vector Byte 64)
    (k : Fin 64) :
    (storeWords B l M)[k.val] = if ⟨k.val / 4, by omega⟩ ∈ l then B[k.val] else M[k.val] := by
  induction l generalizing M with
  | nil => rfl
  | cons i l ih =>
    rw [storeWords, List.foldl_cons, ← storeWords, ih, putBlockWord_blockWord_getElem]
    by_cases hi : k.val / 4 = i.val <;> simp [List.mem_cons, Fin.ext_iff, hi]

theorem storeWords_finRange (B M : Vector Byte 64) : storeWords B (List.finRange 16) M = B := by
  refine Vector.ext fun k hk => ?_
  rw [storeWords_getElem B _ M ⟨k, hk⟩, if_pos (List.mem_finRange _)]

/-- What one `LDW` of a block's load does. -/
def loadWord (B : Vector Byte 64) (s : State) (i : Fin 16) : State :=
  (s.setDATA (blockWord B i)).setM (putBlockWord s.M i (blockWord B i))

theorem foldl_loadWord (B : Vector Byte 64) (l : List (Fin 16)) (s : State) :
    l.foldl (loadWord B) s =
      (s.setM (storeWords B l s.M)).setDATA (l.foldl (fun _ i => blockWord B i) s.DATA) := by
  induction l generalizing s with
  | nil => rfl
  | cons i l ih => rw [List.foldl_cons, ih]; rfl

/-- R83: `LDBLK` leaves the block in `M` and its last word in `DATA`. -/
theorem quietRun_ldblk (B : Vector Byte 64) (hb : s.BUSY = false) :
    QuietRun s (ldblk B) ((s.setM B).setDATA (blockWord B 15)) := by
  obtain ⟨hrun, -⟩ := quietRun_flatMap (body := fun i => ldw i (blockWord B i)) (g := loadWord B)
    (fun s i hs => ⟨quietRun_load (blockWord B i) (.wrw i) hs, hs⟩) (List.finRange 16) hb
  rw [foldl_loadWord, storeWords_finRange] at hrun
  exact hrun

/-! ### Setting and reading the hash state -/

/-- What one `SETH` of the words `H` does. -/
def setHashWord (H : Vector Word 8) (s : State) (i : Fin 8) : State :=
  ((s.setDATA H[i.val]).setH (s.H.set i.val H[i.val])).setDONE false

theorem foldl_setHashWord_H (H : Vector Word 8) (l : List (Fin 8)) (s : State) (k : Fin 8) :
    (l.foldl (setHashWord H) s).H[k.val] = if k ∈ l then H[k.val] else s.H[k.val] := by
  induction l generalizing s with
  | nil => rfl
  | cons i l ih =>
    have hset : (setHashWord H s i).H[k.val] = if i.val = k.val then H[k.val] else s.H[k.val] := by
      simp only [setHashWord, setDONE_H, setH_H, Vector.getElem_set]
      split
      · simp only [*]
      · rfl
    rw [List.foldl_cons, ih, hset]
    rcases eq_or_ne k i with rfl | hi
    · simp
    · simp [hi, Fin.val_ne_of_ne hi.symm]

theorem exists_quietRun_setHash (H : Vector Word 8) (hb : s.BUSY = false) :
    ∃ t, QuietRun s (setHash H) t ∧ t.H = H ∧ t.BUSY = false := by
  obtain ⟨hrun, hidle⟩ := quietRun_flatMap (body := fun i => seth i H[i.val]) (g := setHashWord H)
    (fun s i hs => ⟨quietRun_load H[i.val] (.wrh i) hs, hs⟩) (List.finRange 8) hb
  refine ⟨_, hrun, Vector.ext fun k hk => ?_, hidle⟩
  rw [foldl_setHashWord_H H _ s ⟨k, hk⟩, if_pos (List.mem_finRange _)]

/-- What one `GETH` does. -/
def getHashWord (s : State) (i : Fin 8) : State :=
  (s.setRESULT s.H[i.val]).pushReply ⟨4, s.H[i.val]⟩

theorem foldl_getHashWord_replies (l : List (Fin 8)) (s : State) :
    (l.foldl getHashWord s).replies =
      (l.map fun i => (⟨4, s.H[i.val]⟩ : BusReply)).reverse ++ s.replies := by
  induction l generalizing s with
  | nil => rfl
  | cons i l ih => rw [List.foldl_cons, ih]; simp [getHashWord]

theorem foldl_getHashWord_flag (l : List (Fin 8)) (s : State) (F : ErrFlag) :
    (l.foldl getHashWord s).flag F = s.flag F := by
  induction l generalizing s with
  | nil => rfl
  | cons i l ih => rw [List.foldl_cons, ih]; cases F <;> rfl

/-- R196: the eight `GETH` return the hash state, the last word newest, and raise no flag. -/
theorem exists_quietRun_getHash (hb : s.BUSY = false) :
    ∃ t, QuietRun s getHash t ∧ (∀ F, t.flag F = s.flag F) ∧
      t.replies = ((List.finRange 8).map fun i => (⟨4, s.H[i.val]⟩ : BusReply)).reverse ++
        s.replies := by
  obtain ⟨hrun, -⟩ := quietRun_flatMap (body := geth) (g := getHashWord)
    (fun s i hs => ⟨quietRun_fetch (.rdh i) hs, hs⟩) (List.finRange 8) hb
  exact ⟨_, hrun, foldl_getHashWord_flag _ s, foldl_getHashWord_replies _ s⟩

end Sys2Proof.Machine
end

section
/-! The settled statements about the pseudo-instructions. -/

namespace Sys2Proof.Machine

variable {s : State}

/-- Settles O33: the read-back of a stored word, with and without its byte replaced. -/
theorem blockBufferReadBack : Obligations.BlockBufferReadBack := by
  unfold Obligations.BlockBufferReadBack
  intro s i v x k hb
  have hload := quietRun_load v (.wrw i) hb
  refine ⟨?word, ?byte⟩
  case word =>
    have hread := quietRun_issue (s := commandEffect (.wrw i) (s.setDATA v)) (.rdw i) hb
    exact ⟨_, (hload.append hread).runs, blockWord_putBlockWord s.M i v, rfl⟩
  case byte =>
    have hbyte := hload.append (quietRun_load (s := commandEffect (.wrw i) (s.setDATA v)) x
      (.wrb ⟨4 * i.val + k.val, by omega⟩) hb)
    exact ⟨_, (hbyte.append (quietRun_issue (.rdw i) hb)).runs, rfl,
      fun b hb32 => blockWord_putBlockWord_set_getLsbD s.M i v x k hb32⟩

/-- R83: `ALU3` of a command that writes `r` to `RESULT` from these operands. -/
theorem runs_alu3 (fn : Instr) {x y z r : Word} (hb : s.BUSY = false)
    (hfn : commandEffect fn (((s.setOPY y).setOPZ z).setDATA x) =
      (((s.setOPY y).setOPZ z).setDATA x).setRESULT r) :
    Runs s (alu3 fn x y z)
      { s with OPY := y, OPZ := z, DATA := x, RESULT := r, replies := ⟨4, r⟩ :: s.replies } := by
  have hy : QuietRun s (sety y) ((s.setDATA y).setOPY y) := quietRun_load y .wry hb
  have hz : QuietRun ((s.setDATA y).setOPY y) (setz z) (((s.setOPY y).setDATA z).setOPZ z) :=
    quietRun_load z .wrz hb
  have hx : QuietRun (((s.setOPY y).setDATA z).setOPZ z) [writeDATA x]
      (((s.setOPY y).setOPZ z).setDATA x) := quietRun_writeDATA x _
  have hfetch := quietRun_fetch (s := ((s.setOPY y).setOPZ z).setDATA x) fn hb
  rw [hfn] at hfetch
  exact ((hy.append hz).append (hx.append hfetch)).runs

/-- Settles O56: each pseudo-instruction is a load, a fetch or a loop of loads. -/
theorem pseudoInstructions : Obligations.PseudoInstructions := by
  unfold Obligations.PseudoInstructions
  intro s x y z hb
  refine ⟨fun i => ?hash, (quietRun_load y .wry hb).runs, (quietRun_load z .wrz hb).runs,
    fun B => (quietRun_ldblk B hb).runs, fun k => ⟨_, rfl, (quietRun_fetch (.rdw k) hb).runs⟩,
    fun n => ?alu, ?clrerr⟩
  case hash =>
    have hfetch := quietRun_fetch (s := commandEffect (.wrh i) (s.setDATA x)) (.rdh i) hb
    have hword : (s.H.set i.val x)[i.val] = x := Vector.getElem_set_self i.isLt
    refine ⟨_, ((quietRun_load x (.wrh i) hb).append hfetch).runs, hword, ?_⟩
    simp [commandEffect, hword]
  case alu =>
    simp only [List.forall_mem_cons, List.not_mem_nil, false_implies, implies_true, and_true]
    refine ⟨?_, ?_, ?_, ?_, ?_, ?_, ?_, ?_, ?_, ?_⟩ <;> exact runs_alu3 _ hb rfl
  case clrerr =>
    have hclear : s.clearErr 0x1C =
        { s with CMDERR := false, BUSYERR := false, ACCERR := false } := by
      simp [State.clearErr]
    exact hclear ▸ Runs.cons rfl (Runs.nil _)

end Sys2Proof.Machine
end

section
/-! Padding and splitting (R191 to R193). -/

namespace Sys2Proof.Machine

@[simp] theorem be64_length (n : Nat) : (be64 n).length = 8 := by simp [be64]

theorem pad_length (m : List Byte) :
    (pad m).length = m.length + 9 + zeroCount m.length := by
  simp only [pad, List.length_append, List.length_replicate, be64_length, List.length_singleton]
  omega

/-- R192: the padded form fills its blocks. -/
theorem pad_length_eq_blocks (m : List Byte) :
    (pad m).length = 64 * ((m.length + 8) / 64 + 1) := by
  rw [pad_length, zeroCount]
  omega

theorem pad_drop (m : List Byte) : (pad m).drop ((pad m).length - 8) = be64 (8 * m.length) :=
  List.drop_left' (by rw [pad_length]; simp; omega)

/-- R193: a whole block is a piece of the padded form. -/
theorem blockAt_toList {p : List Byte} {j : Nat} (h : 64 * j + 64 ≤ p.length) :
    (blockAt p j).toList = (p.drop (64 * j)).take 64 := by
  refine List.ext_getElem (by simp; omega) fun i hi _ => ?_
  have hi64 : i < 64 := by simpa using hi
  have hlt : 64 * j + i < p.length := by omega
  simp [blockAt, hlt]

theorem flatMap_blockAt {p : List Byte} (n : Nat) (h : 64 * n ≤ p.length) :
    ((List.range n).flatMap fun j => (blockAt p j).toList) = p.take (64 * n) := by
  induction n with
  | zero => simp
  | succ n ih =>
    rw [List.range_succ, List.flatMap_append, ih (by omega), List.flatMap_singleton,
      blockAt_toList (by omega), ← List.take_add]
    rfl

theorem splitBlocks_of_length {L : Nat} {p : List Byte}
    (h : p.length = 64 * ((L + 8) / 64 + 1)) :
    splitBlocks L p = .ok ((List.range ((L + 8) / 64 + 1)).map (blockAt p)) := by
  have hmod : p.length % 64 = 0 := by omega
  have hdiv : p.length / 64 = (L + 8) / 64 + 1 := by omega
  rw [splitBlocks, if_neg (not_not.2 hmod), if_neg (by rw [hdiv]; exact not_not.2 rfl), hdiv]

/-- R193: the blocks of a message. -/
def messageBlocks (m : List Byte) : List (Vector Byte 64) :=
  (List.range ((m.length + 8) / 64 + 1)).map (blockAt (pad m))

theorem splitBlocks_pad (m : List Byte) : splitBlocks m.length (pad m) = .ok (messageBlocks m) :=
  splitBlocks_of_length (pad_length_eq_blocks m)

@[simp] theorem messageBlocks_length (m : List Byte) :
    (messageBlocks m).length = (m.length + 8) / 64 + 1 := by
  simp [messageBlocks]

/-- Settles O55: the padded form fills the blocks its message asks for. -/
theorem paddingProperties : Obligations.PaddingProperties := by
  unfold Obligations.PaddingProperties
  intro m
  have hlen := pad_length_eq_blocks m
  exact ⟨by omega, by omega, by omega, pad_drop m,
    ⟨_, splitBlocks_pad m, messageBlocks_length m⟩, by omega, by omega⟩

/-- Settles O57: the two tests of R197 in their order, and the blocks of R193. -/
theorem splittingChecksThePadding : Obligations.SplittingChecksThePadding := by
  unfold Obligations.SplittingChecksThePadding
  refine fun L p => ⟨fun hmod => if_pos hmod, fun hmod hdiv => ?count, fun hlen => ?blocks⟩
  case count => exact (if_neg (not_not.2 hmod)).trans (if_pos hdiv)
  case blocks =>
    refine ⟨_, splitBlocks_of_length hlen, by simp, ?_⟩
    rw [List.flatMap_map, flatMap_blockAt _ hlen.ge, ← hlen, List.take_length]

end Sys2Proof.Machine
end

section
/-! The block loop and the host programs of R195 and R196 on an idle engine. -/

namespace Sys2Proof.Machine

variable {s t u : State} {run : List Event → State → Except HostStop State}
  {b : Vector Byte 64 × List Nat} {bs : List (Vector Byte 64 × List Nat)}

theorem InRound.iterate {n : Nat} (hn : n ≤ 64) (s : State) :
    InRound s n (State.sequencerStep^[n] s.acceptComp) := by
  induction n with
  | zero => exact inRound_acceptComp s
  | succ n ih =>
    rw [Function.iterate_succ_apply']
    exact (ih (by omega)).round (by omega)

/-- R195, R196: one block of the loop: `LDBLK`, `COMP` and `WAIT`. -/
def runBlock (run : List Event → State → Except HostStop State) (b : Vector Byte 64 × List Nat)
    (s : State) : Except HostStop State :=
  (run (ldblk b.1 ++ [issue .comp]) s).bind (hostWait b.2)

theorem runBlocks_cons (run : List Event → State → Except HostStop State)
    (b : Vector Byte 64 × List Nat) (bs : List (Vector Byte 64 × List Nat)) (s : State) :
    runBlocks run (b :: bs) s = (runBlock run b s).bind (runBlocks run bs) := rfl

theorem runBlocks_cons_of_ok (h : runBlock run b s = .ok t) :
    runBlocks run (b :: bs) s = runBlocks run bs t := by
  rw [runBlocks_cons, h]
  rfl

theorem runBlocks_cons_of_error {e : HostStop} (h : runBlock run b s = .error e) :
    runBlocks run (b :: bs) s = .error e := by
  rw [runBlocks_cons, h]
  rfl

/-- The state in which a block's `WAIT` begins. -/
def blockAccepted (B : Vector Byte 64) (s : State) : State :=
  (((s.setM B).setDATA (blockWord B 15)).acceptComp).setPending []

section
variable (hrun : run = hostRun ∨ run = checkedRun) (hb : s.BUSY = false)
include hrun hb

theorem runBlock_of_idle (b : Vector Byte 64 × List Nat) :
    runBlock run b s = hostWait b.2 (blockAccepted b.1 s) := by
  rw [runBlock, ((quietRun_ldblk b.1 hb).append (quietRun_issue .comp hb)).run_eq_ok hrun]
  rfl

/-- R168: a block whose `WAIT` is long enough is compressed into `H`. -/
theorem exists_runBlock (hsum : 65 ≤ b.2.sum) :
    ∃ t, runBlock run b s = .ok t ∧ t.H = compress1 s.H b.1 ∧ t.BUSY = false ∧
      ∀ F, t.flag F = s.flag F := by
  have hne : b.2 ≠ [] := by
    intro hnil
    simp [hnil] at hsum
  have hidle := (iterate_BUSY_eq_false_iff (s := blockAccepted b.1 s) rfl).2
    (hsum.trans (Nat.le_add_left _ _))
  obtain ⟨t, ht⟩ := exists_hostWait hne hidle
  obtain ⟨k, r, rs, hk, -⟩ := hostWait_ok ht
  obtain ⟨rs', hupdate⟩ := hostWait_ok_of_busy rfl ht
  refine ⟨t, (runBlock_of_idle hrun hb b).trans ht, ?hash, by simp [hupdate], fun F => ?flags⟩
  case hash =>
    have hround : InRound _ 64 (State.sequencerStep^[64] (blockAccepted b.1 s)) :=
      InRound.iterate le_rfl (((s.setM b.1).setDATA (blockWord b.1 15)).setPending [])
    rw [hupdate]
    exact hround.updateStep_H
  case flags =>
    rw [hk, withReplies_flag, iterate_flag]
    cases F <;> rfl

theorem runBlock_of_short (hsum : b.2.sum < 65) : runBlock run b s = .error .waiting := by
  rw [runBlock_of_idle hrun hb b]
  exact hostWait_of_short (iterate_of_rounds (s := blockAccepted b.1 s) rfl
    ((Nat.zero_add _).trans_le (Nat.lt_succ_iff.1 hsum))).1

/-- R168, R169: the blocks in order. -/
theorem exists_runBlocks (hsum : ∀ b ∈ bs, 65 ≤ b.2.sum) :
    ∃ t, runBlocks run bs s = .ok t ∧ t.H = compressSeq s.H (bs.map (·.1)) ∧ t.BUSY = false ∧
      ∀ F, t.flag F = s.flag F := by
  induction bs generalizing s with
  | nil => exact ⟨s, rfl, rfl, hb, fun _ => rfl⟩
  | cons b bs ih =>
    obtain ⟨u, hu, hH, hidle, hflag⟩ := exists_runBlock hrun hb (hsum b List.mem_cons_self)
    obtain ⟨t, ht, htH, htidle, htflag⟩ :=
      ih hidle fun b hmem => hsum b (List.mem_cons_of_mem _ hmem)
    exact ⟨t, (runBlocks_cons_of_ok hu).trans ht, htH.trans (by rw [hH]; rfl), htidle,
      fun F => (htflag F).trans (hflag F)⟩

theorem runBlocks_of_short (hsum : ∃ b ∈ bs, b.2.sum < 65) :
    runBlocks run bs s = .error .waiting := by
  induction bs generalizing s with
  | nil => simp at hsum
  | cons b bs ih =>
    by_cases hlong : 65 ≤ b.2.sum
    · obtain ⟨u, hu, -, hidle, -⟩ := exists_runBlock hrun hb hlong
      have hrest : ∃ b ∈ bs, b.2.sum < 65 := by
        simpa [Nat.not_lt.2 hlong] using hsum
      rw [runBlocks_cons_of_ok hu, ih hidle hrest]
    · exact runBlocks_cons_of_error (runBlock_of_short hrun hb (Nat.lt_of_not_le hlong))

end

/-! ### The compress program (R196) -/

theorem map_finRange_getElem (H : Vector Word 8) :
    (List.finRange 8).map (fun i => H[i.val]) = H.toList := by
  refine List.ext_getElem (by simp) fun i _ _ => ?_
  simp

/-- What eight `GETH` read is the hash state. -/
theorem hashOfReplies_getHash (H : Vector Word 8) (rs : List BusReply) :
    hashOfReplies (((List.finRange 8).map fun i => (⟨4, H[i.val]⟩ : BusReply)).reverse ++ rs) =
      .ok H.toList := by
  have hmap : (fun i : Fin 8 => H[i.val]) =
      BusReply.value ∘ fun i : Fin 8 => (⟨4, H[i.val]⟩ : BusReply) := rfl
  rw [hashOfReplies, if_neg (by simp), List.take_left' (by simp), List.reverse_reverse,
    List.map_map, ← hmap, map_finRange_getElem]

/-- R196: once the initial state is set, the program is the block loop and the eight `GETH`. -/
theorem runCompress_of_idle (H : Vector Word 8) (bs : List (Vector Byte 64 × List Nat))
    (hb : s.BUSY = false) :
    ∃ u, u.H = H ∧ u.BUSY = false ∧ runCompress H bs s =
      ((runBlocks checkedRun bs u).bind (checkedRun getHash)).bind
        fun t => hashOfReplies t.replies := by
  obtain ⟨u, hu, hH, hidle⟩ := exists_quietRun_setHash H hb
  exact ⟨u.setPending [], hH, hidle, by rw [runCompress, hu.run_eq_ok (.inr rfl)]; rfl⟩

theorem runCompress_of_long (H : Vector Word 8) (hb : s.BUSY = false)
    (hsum : ∀ b ∈ bs, 65 ≤ b.2.sum) :
    runCompress H bs s = .ok (compressSeq H (bs.map (·.1))).toList := by
  obtain ⟨u, hH, hidle, hprog⟩ := runCompress_of_idle H bs hb
  obtain ⟨t, ht, htH, htidle, -⟩ := exists_runBlocks (.inr rfl) hidle hsum
  obtain ⟨v, hv, -, hreplies⟩ := exists_quietRun_getHash htidle
  calc runCompress H bs s = hashOfReplies v.replies := by
        rw [hprog, ht, Except.bind, hv.run_eq_ok (.inr rfl)]
        rfl
    _ = .ok (compressSeq H (bs.map (·.1))).toList := by
        rw [hreplies, hashOfReplies_getHash, htH, hH]

theorem runCompress_of_short (H : Vector Word 8) (hb : s.BUSY = false)
    (hsum : ∃ b ∈ bs, b.2.sum < 65) : runCompress H bs s = .error .waiting := by
  obtain ⟨u, -, hidle, hprog⟩ := runCompress_of_idle H bs hb
  rw [hprog, runBlocks_of_short (.inr rfl) hidle hsum]
  rfl

/-- Settles O43: the loop block by block, and the compress program around it. -/
theorem blocksCompressInOrder : Obligations.BlocksCompressInOrder := by
  unfold Obligations.BlocksCompressInOrder
  refine fun s bs hb hsum => ⟨fun run hrun => ?loop, fun H => runCompress_of_long H hb hsum⟩
  case loop =>
    obtain ⟨t, ht, hH, hidle, hflag⟩ := exists_runBlocks hrun hb hsum
    exact ⟨t, ht, hH, hidle, hflag .CMDERR, hflag .BUSYERR, hflag .ACCERR⟩

end Sys2Proof.Machine
end

section
/-! The digest program (R195) on an idle engine. -/

namespace Sys2Proof.Machine

variable {s t : State} {gaps : Nat → List Nat} {bs : List (Vector Byte 64)}

theorem map_fst_withGaps (gaps : Nat → List Nat) (bs : List (Vector Byte 64)) :
    (withGaps gaps bs).map (·.1) = bs := by
  simp [withGaps, Function.comp_def]

/-- Every block with its gaps, by its place. -/
theorem mem_withGaps (gaps : Nat → List Nat) (bs : List (Vector Byte 64))
    (b : Vector Byte 64 × List Nat) :
    b ∈ withGaps gaps bs ↔ ∃ j, ∃ h : j < bs.length, b = (bs[j], gaps j) := by
  rw [withGaps, List.mem_iff_getElem]
  simp [eq_comm]

theorem long_withGaps (h : ∀ j < bs.length, 65 ≤ (gaps j).sum) :
    ∀ b ∈ withGaps gaps bs, 65 ≤ b.2.sum := by
  intro b hb
  obtain ⟨j, hj, rfl⟩ := (mem_withGaps gaps bs b).1 hb
  exact h j hj

theorem short_withGaps (h : ∃ j < bs.length, (gaps j).sum < 65) :
    ∃ b ∈ withGaps gaps bs, b.2.sum < 65 := by
  obtain ⟨j, hj, hsum⟩ := h
  exact ⟨_, (mem_withGaps gaps bs _).2 ⟨j, hj, rfl⟩, hsum⟩

/-- R195: reading out the digest: the eight `GETH`, the final `STATUS` read and its test. -/
def readDigest (s : State) : Except HostStop (List Byte) :=
  (hostRun (getHash ++ [readSTATUS]) s).bind fun t => digestOfReplies t.replies

/-- The digest program after `INIT` has led to `t`. -/
theorem runDigest_of_init (m : List Byte) (gaps : Nat → List Nat)
    (h : hostRun [issue .init] s = .ok t) :
    runDigest m gaps s =
      (runBlocks hostRun (withGaps gaps (messageBlocks m)) t).bind readDigest := by
  rw [runDigest, splitBlocks_pad, h]
  change ((runBlocks hostRun (withGaps gaps (messageBlocks m)) t).bind _).bind _ = _
  cases runBlocks hostRun (withGaps gaps (messageBlocks m)) t <;> rfl

theorem hostRun_init_of_idle (hb : s.BUSY = false) :
    hostRun [issue .init] s = .ok ((commandEffect .init s).setPending []) :=
  (quietRun_issue .init hb).run_eq_ok (.inl rfl)

/-- R24: a `STATUS` read shows an error exactly if a flag is set. -/
theorem statusShowsError_iff (s : State) :
    statusShowsError (statusWord s) = true ↔ ∃ F, s.flag F = true := by
  rw [statusShowsError_statusWord, Bool.or_eq_true, Bool.or_eq_true]
  constructor
  · rintro ((h | h) | h)
    · exact ⟨.CMDERR, h⟩
    · exact ⟨.BUSYERR, h⟩
    · exact ⟨.ACCERR, h⟩
  · rintro ⟨_ | _ | _, h⟩
    · exact .inl (.inl h)
    · exact .inl (.inr h)
    · exact .inr h

theorem noErrors_iff (s : State) : NoErrors s ↔ ∀ F, s.flag F = false := by
  refine ⟨fun ⟨hc, hb, ha⟩ F => ?_, fun h => ⟨h .CMDERR, h .BUSYERR, h .ACCERR⟩⟩
  cases F <;> assumption

theorem readDigest_of_noErrors (hb : s.BUSY = false) (hclean : NoErrors s) :
    readDigest s = .ok (hashBytes s.H.toList) := by
  obtain ⟨t, ht, hflag, hreplies⟩ := exists_quietRun_getHash hb
  have hquiet : statusShowsError (statusWord t) = false := by
    rw [← Bool.not_eq_true, statusShowsError_iff]
    rintro ⟨F, hF⟩
    exact absurd ((hF.symm.trans (hflag F)).trans ((noErrors_iff s).1 hclean F)) (by decide)
  rw [readDigest, (ht.append (quietRun_readSTATUS t)).run_eq_ok (.inl rfl)]
  change digestOfReplies (⟨4, statusWord t⟩ :: t.replies) = _
  rw [digestOfReplies_of_noError (r := ⟨4, statusWord t⟩) _ hquiet, hreplies, hashOfReplies_getHash]
  rfl

theorem digest_eq (m : List Byte) :
    digest m = .ok (hashBytes (compressSeq Config.IV (messageBlocks m)).toList) := by
  rw [digest, splitBlocks_pad]
  rfl

/-- R195: with clear flags and waits that reach the end, the program answers the digest. -/
theorem runDigest_of_long (m : List Byte) (hb : s.BUSY = false) (hclean : NoErrors s)
    (hsum : ∀ j < (messageBlocks m).length, 65 ≤ (gaps j).sum) :
    runDigest m gaps s = digest m := by
  obtain ⟨t, ht, hH, hidle, hflag⟩ := exists_runBlocks (.inl rfl)
    (s := (commandEffect .init s).setPending []) hb (long_withGaps hsum)
  have htclean : NoErrors t := by
    rw [noErrors_iff] at hclean ⊢
    exact fun F => (hflag F).trans (by rw [setPending_flag, flag_commandEffect, hclean F])
  rw [runDigest_of_init m gaps (hostRun_init_of_idle hb), ht, digest_eq]
  change readDigest t = _
  rw [readDigest_of_noErrors hidle htclean, hH, map_fst_withGaps]
  rfl

theorem runDigest_of_short (m : List Byte) (hb : s.BUSY = false)
    (hsum : ∃ j < (messageBlocks m).length, (gaps j).sum < 65) :
    runDigest m gaps s = .error .waiting := by
  rw [runDigest_of_init m gaps (hostRun_init_of_idle hb), runBlocks_of_short (.inl rfl)
    (s := (commandEffect .init s).setPending []) hb (short_withGaps hsum)]
  rfl

theorem hashBytes_length (hs : List Word) : (hashBytes hs).length = 4 * hs.length := by
  simp [hashBytes, be32, Nat.mul_comm]

/-- Settles O59: the blocks of the padded message in the loop, then the hash state as the replies
have it. -/
theorem digestProgramComputesDigest : Obligations.DigestProgramComputesDigest := by
  unfold Obligations.DigestProgramComputesDigest
  refine ⟨fun v => rfl, fun s m gaps hb hclean hsum => ?program⟩
  case program =>
    rw [← messageBlocks_length] at hsum
    exact ⟨_, _, splitBlocks_pad m, rfl, by rw [← hashBytes, hashBytes_length]; simp, digest_eq m,
      (runDigest_of_long m hb hclean hsum).trans (digest_eq m)⟩

end Sys2Proof.Machine
end

section
/-! A refused command in a host program (R197): it sets a flag, the flag stays to the final
`STATUS` read, and the compress program sees the refusal where it happens. -/

namespace Sys2Proof.Machine

variable {s t : State} {F : ErrFlag} {es : List Event} {gaps : List Nat}
  {bs : List (Vector Byte 64 × List Nat)}

/-- Accesses that clear no flag always have an end, with every flag that was set. -/
theorem exists_runs_of_keepsFlags (hk : ∀ e ∈ es, keepsFlags e = true) (s : State) :
    ∃ t, Runs s es t ∧ ∀ F, s.flag F = true → t.flag F = true := by
  obtain ⟨t, ht⟩ := Runs.exists_of_isOrdinary (fun e he => isOrdinary_of_keepsFlags (hk e he)) s
  exact ⟨t, ht, fun F hF => flag_of_runs hk F ht hF⟩

theorem keepsFlags_of_mem_loadBlock (B : Vector Byte 64) :
    ∀ e ∈ ldblk B ++ [issue .comp], keepsFlags e = true := by
  simp [ldblk, ldw, or_imp, forall_and, keepsFlags, issue, writeDATA]

theorem keepsFlags_of_mem_getHash : ∀ e ∈ getHash, keepsFlags e = true := by
  simp [getHash, geth, or_imp, forall_and, keepsFlags, issue, readRESULT, Place.inWindow]

theorem hostWait_flag (h : hostWait gaps s = .ok t) (F : ErrFlag) : t.flag F = s.flag F := by
  obtain ⟨k, r, rs, rfl, -⟩ := hostWait_ok h
  rw [withReplies_flag, iterate_flag]

/-- From any state, 65 turns are enough for a `WAIT`. -/
theorem exists_hostWait_of_long (hsum : 65 ≤ gaps.sum) (s : State) :
    ∃ t, hostWait gaps s = .ok t := by
  refine exists_hostWait ?_ ?_
  · rintro rfl
    simp at hsum
  · cases hb : s.BUSY with
    | false => rw [iterate_of_idle _ hb, hb]
    | true => exact (iterate_BUSY_eq_false_iff hb).2 (by omega)

/-- One block from any state: `WAIT` begins where the accesses end, with every flag that was set. -/
theorem exists_runBlock_eq_hostWait (b : Vector Byte 64 × List Nat) (s : State) :
    ∃ u, runBlock hostRun b s = hostWait b.2 u ∧ ∀ F, s.flag F = true → u.flag F = true := by
  obtain ⟨u, hu, hflag⟩ := exists_runs_of_keepsFlags (keepsFlags_of_mem_loadBlock b.1) s
  refine ⟨u.setPending [], by rw [runBlock, hostRun_of_runs hu]; rfl, fun F hF => ?_⟩
  rw [setPending_flag]
  exact hflag F hF

theorem exists_runBlocks_of_long (hsum : ∀ b ∈ bs, 65 ≤ b.2.sum) (s : State) :
    ∃ t, runBlocks hostRun bs s = .ok t := by
  induction bs generalizing s with
  | nil => exact ⟨s, rfl⟩
  | cons b bs ih =>
    obtain ⟨u, hu, -⟩ := exists_runBlock_eq_hostWait b s
    obtain ⟨v, hv⟩ := exists_hostWait_of_long (hsum b List.mem_cons_self) u
    rw [runBlocks_cons_of_ok (hu.trans hv)]
    exact ih (fun b hmem => hsum b (List.mem_cons_of_mem _ hmem)) v

theorem runBlocks_flag (h : runBlocks hostRun bs s = .ok t) (hF : s.flag F = true) :
    t.flag F = true := by
  induction bs generalizing s with
  | nil => cases h; exact hF
  | cons b bs ih =>
    obtain ⟨u, hu, hflag⟩ := exists_runBlock_eq_hostWait b s
    cases hv : hostWait b.2 u with
    | error e =>
      rw [runBlocks_cons_of_error (hu.trans hv)] at h
      cases h
    | ok v =>
      rw [runBlocks_cons_of_ok (hu.trans hv)] at h
      exact ih h ((hostWait_flag hv F).trans (hflag F hF))

theorem readDigest_of_flag (hF : s.flag F = true) : readDigest s = .error .refusedCommand := by
  obtain ⟨u, hu, hflag⟩ := exists_runs_of_keepsFlags keepsFlags_of_mem_getHash s
  have hread := hu.append (Runs.cons (performEvent_readSTATUS u) (Runs.nil _))
  rw [readDigest, hostRun_of_runs hread]
  exact digestOfReplies_of_error _ ((statusShowsError_iff u).2 ⟨F, hflag F hF⟩)

/-- R212: `INIT` on a busy engine sets `BUSYERR`; on any engine it clears no flag. -/
theorem exists_hostRun_init_flag (h : s.BUSY = true ∨ ¬NoErrors s) :
    ∃ t, hostRun [issue .init] s = .ok t ∧ ∃ F, t.flag F = true := by
  have hset : s.BUSY = true ∨ ∃ F, s.flag F = true := by
    simpa [noErrors_iff] using h
  rcases hset with hb | ⟨F, hF⟩
  · exact ⟨_, hostRun_of_runs (Runs.cons (performEvent_issue_of_busy .init hb) (Runs.nil _)),
      .BUSYERR, rfl⟩
  · obtain ⟨t, ht, hflag⟩ := exists_runs_of_keepsFlags (es := [issue .init]) (by decide) s
    exact ⟨_, hostRun_of_runs ht, F, by rw [setPending_flag, hflag F hF]⟩

/-- R195, R197: with a flag set after `INIT` the digest program ends in a wait that goes on or in
the refusal that its last read shows. -/
theorem runDigest_of_refused (m : List Byte) (gaps : Nat → List Nat)
    (h : s.BUSY = true ∨ ¬NoErrors s) :
    (∀ d, runDigest m gaps s ≠ .ok d) ∧
    ((∀ j < (messageBlocks m).length, 65 ≤ (gaps j).sum) →
      runDigest m gaps s = .error .refusedCommand) := by
  obtain ⟨t, ht, F, hF⟩ := exists_hostRun_init_flag h
  rw [runDigest_of_init m gaps ht]
  cases hblocks : runBlocks hostRun (withGaps gaps (messageBlocks m)) t with
  | ok u =>
    change (∀ d, readDigest u ≠ .ok d) ∧ (_ → readDigest u = _)
    simp [readDigest_of_flag (runBlocks_flag hblocks hF)]
  | error e =>
    refine ⟨fun d => (nomatch ·), fun hsum => ?_⟩
    obtain ⟨u, hu⟩ := exists_runBlocks_of_long (long_withGaps hsum) t
    cases hblocks.symm.trans hu

theorem digest_of_runDigest_ok {m : List Byte} {gaps : Nat → List Nat} {d : List Byte}
    (h : runDigest m gaps s = .ok d) : digest m = .ok d := by
  have haccepted : ¬(s.BUSY = true ∨ ¬NoErrors s) := fun href => by
    obtain ⟨hno, -⟩ := runDigest_of_refused m gaps href
    exact hno d h
  have hb : s.BUSY = false := by simpa using fun hb => haccepted (.inl hb)
  have hclean : NoErrors s := by
    by_contra hne
    exact haccepted (.inr hne)
  have hsum : ∀ j < (messageBlocks m).length, 65 ≤ (gaps j).sum := by
    by_contra hshort
    push Not at hshort
    rw [runDigest_of_short m hb hshort] at h
    cases h
  exact (runDigest_of_long m hb hclean hsum).symm.trans h

/-- R196, R197: the first `SETH` on a busy engine is refused. -/
theorem runCompress_of_busy (H : Vector Word 8) (bs : List (Vector Byte 64 × List Nat))
    (hb : s.BUSY = true) : runCompress H bs s = .error .refusedCommand := by
  obtain ⟨es, hes⟩ : ∃ es, setHash H = writeDATA H[0] :: issue (.wrh 0) :: es := ⟨_, rfl⟩
  have hraise : raisesWithin (setHash H).length (s.setPending (setHash H)) = true := by
    rw [hes, raisesWithin_cons (performEvent_writeDATA H[0] s),
      raisesWithin_cons (performEvent_issue_of_busy (s := s.setDATA H[0]) (.wrh 0) hb),
      errorRaised_issue_of_busy (s := s.setDATA H[0]) (.wrh 0) es hb]
    simp
  rw [runCompress, checkedRun_of_refused hraise]
  rfl

theorem words_of_runCompress_ok {H : Vector Word 8} {ws : List Word}
    (h : runCompress H bs s = .ok ws) : ws = (compressSeq H (bs.map (·.1))).toList := by
  have hb : s.BUSY = false := by
    by_contra hbusy
    rw [runCompress_of_busy H bs (Bool.eq_true_of_not_eq_false hbusy)] at h
    cases h
  have hsum : ∀ b ∈ bs, 65 ≤ b.2.sum := by
    by_contra hshort
    push Not at hshort
    rw [runCompress_of_short H hb hshort] at h
    cases h
  rw [runCompress_of_long H hb hsum] at h
  exact (Except.ok.inj h).symm

/-- Settles O60: a refusal before the last read is shown by it, and a result needs an idle
engine, clear flags and waits that are long enough. -/
theorem refusedCommandIsAHostDefect : Obligations.RefusedCommandIsAHostDefect := by
  unfold Obligations.RefusedCommandIsAHostDefect
  refine ⟨fun s m gaps => ⟨fun d => digest_of_runDigest_ok, fun hsum href => ?refused,
      fun hb hshort => ?short⟩,
    fun s H bs => ⟨fun ws => words_of_runCompress_ok, runCompress_of_busy H bs,
      runCompress_of_short H⟩⟩
  case refused =>
    obtain ⟨-, hrefused⟩ := runDigest_of_refused m gaps href
    exact hrefused (by rwa [messageBlocks_length])
  case short => exact runDigest_of_short m hb (by rwa [messageBlocks_length])

end Sys2Proof.Machine
end

section
/-! Laws of the word functions of R100 to R108 (R121), and the register value on the bus lanes. -/

namespace Sys2Proof.Machine

variable {x y z : Word} {m n : Nat}

theorem rotr_rotr (x : Word) (hm : m < 32) (hn : n < 32) :
    rotr (rotr x m) n = rotr x ((m + n) % 32) := by
  refine BitVec.eq_of_getLsbD_eq fun i hi => ?_
  have hindex : ((i + n) % 32 + m) % 32 = (i + (m + n) % 32) % 32 := by omega
  rw [rotr_getLsbD _ hn hi, rotr_getLsbD _ hm (Nat.mod_lt _ (by decide)),
    rotr_getLsbD _ (Nat.mod_lt _ (by decide)) hi, hindex]

/-- A rotation is undone by the rotation through the rest of the word. -/
theorem rotr_bijective (hn : n < 32) : Function.Bijective fun x : Word => rotr x n := by
  have hm : (32 - n) % 32 < 32 := Nat.mod_lt _ (by decide)
  have hleft : (n + (32 - n) % 32) % 32 = 0 := by omega
  have hright : ((32 - n) % 32 + n) % 32 = 0 := by omega
  refine Function.bijective_iff_has_inverse.2
    ⟨fun x => rotr x ((32 - n) % 32), fun x => ?_, fun x => ?_⟩
  · simp only [rotr_rotr x hn hm, hleft, rotr_zero]
  · simp only [rotr_rotr x hm hn, hright, rotr_zero]

theorem rotr_xor (x y : Word) (hn : n < 32) : rotr (x ^^^ y) n = rotr x n ^^^ rotr y n := by
  refine BitVec.eq_of_getLsbD_eq fun i hi => ?_
  simp only [BitVec.getLsbD_xor, rotr_getLsbD _ hn hi]

theorem shr_xor (x y : Word) (n : Nat) : shr (x ^^^ y) n = shr x n ^^^ shr y n :=
  BitVec.ushiftRight_xor_distrib x y n

theorem ch_eq_or (x y z : Word) : ch x y z = (x &&& y) ||| (~~~x &&& z) := by
  refine BitVec.eq_of_getLsbD_eq fun i hi => ?_
  rw [ch_getLsbD x y z hi, BitVec.getLsbD_or, BitVec.getLsbD_and, BitVec.getLsbD_and,
    BitVec.getLsbD_not]
  cases x.getLsbD i <;> simp [hi]

theorem maj_eq_or (x y z : Word) : maj x y z = (x &&& y) ||| (x &&& z) ||| (y &&& z) := by
  have majority : ∀ a b c : Bool,
      decide (2 ≤ a.toNat + b.toNat + c.toNat) = (a && b || a && c || b && c) := by decide
  refine BitVec.eq_of_getLsbD_eq fun i _ => ?_
  simp only [maj_getLsbD, BitVec.getLsbD_or, BitVec.getLsbD_and, majority]

theorem maj_eq_ch (x y z : Word) : maj x y z = ch (x ^^^ y) z y := by
  have majority : ∀ a b c : Bool,
      decide (2 ≤ a.toNat + b.toNat + c.toNat) = if (a ^^ b) = true then c else b := by decide
  refine BitVec.eq_of_getLsbD_eq fun i hi => ?_
  rw [maj_getLsbD, ch_getLsbD _ _ _ hi, BitVec.getLsbD_xor, majority]

/-- R104 to R107: each sigma function is an exclusive or of rotations and shifts of its word. -/
theorem sigma_linear : ∀ F ∈ [bigSigma0, bigSigma1, smallSigma0, smallSigma1],
    F 0 = 0 ∧ ∀ x y : Word, F (x ^^^ y) = F x ^^^ F y := by
  simp only [List.forall_mem_cons, List.not_mem_nil, false_implies, implies_true, and_true]
  refine ⟨⟨by decide, fun x y => ?_⟩, ⟨by decide, fun x y => ?_⟩, ⟨by decide, fun x y => ?_⟩,
    ⟨by decide, fun x y => ?_⟩⟩
  · simp only [bigSigma0, rotr_xor, Nat.reduceLT]
    ac_rfl
  · simp only [bigSigma1, rotr_xor, Nat.reduceLT]
    ac_rfl
  · simp only [smallSigma0, rotr_xor, shr_xor, Nat.reduceLT]
    ac_rfl
  · simp only [smallSigma1, rotr_xor, shr_xor, Nat.reduceLT]
    ac_rfl

theorem add2_inverse (x : Word) : add2 x (BitVec.ofNat 32 (2 ^ 32 - x.toNat)) = 0 := by
  have hx := x.isLt
  refine BitVec.eq_of_toNat_eq ?_
  simp only [add2, BitVec.toNat_add, BitVec.toNat_ofNat, BitVec.ofNat_eq_ofNat, Nat.zero_mod]
  omega

/-- Settles O26: the laws of rotation and choice bit by bit, those of addition from the library. -/
theorem wordFunctionLaws : Obligations.WordFunctionLaws := by
  unfold Obligations.WordFunctionLaws
  exact ⟨fun x m n => rotr_rotr x, fun n => rotr_bijective,
    fun x n _ => (shr_toNat x n).trans_le (Nat.div_le_self _ _), ch_eq_or,
    fun x y z => ⟨maj_eq_or x y z, maj_eq_ch x y z⟩, sigma_linear,
    fun x y z => ⟨BitVec.add_assoc x y z, BitVec.add_comm x y, BitVec.add_zero x⟩,
    fun x _ => add2_inverse x⟩

theorem add2_eq_ofNat (x y : Word) : add2 x y = BitVec.ofNat 32 ((x.toNat + y.toNat) % 2 ^ 32) := by
  refine BitVec.eq_of_toNat_eq ?_
  simp [add2]

theorem add3_eq_ofNat (x y z : Word) :
    add3 x y z = BitVec.ofNat 32 ((x.toNat + y.toNat + z.toNat) % 2 ^ 32) := by
  refine BitVec.eq_of_toNat_eq ?_
  simp [add3]

theorem add4_toNat (x y z u : Word) :
    (add4 x y z u).toNat = (x.toNat + y.toNat + z.toNat + u.toNat) % 2 ^ 32 := by
  simp [add4]

theorem add5_toNat (x y z u w : Word) :
    (add5 x y z u w).toNat = (x.toNat + y.toNat + z.toNat + u.toNat + w.toNat) % 2 ^ 32 := by
  simp [add5]

/-- Settles O24: the sums are reduced as the library reduces them. -/
theorem addersSumModuloWord : Obligations.AddersSumModuloWord := by
  unfold Obligations.AddersSumModuloWord
  refine ⟨fun s hb => ⟨?add, ?add3⟩, fun x y z u w => ⟨add4_toNat x y z u, add5_toNat x y z u w⟩⟩
  case add => rw [exec_of_idle .add hb, commandEffect, add2_eq_ofNat]; rfl
  case add3 => rw [exec_of_idle .add3 hb, commandEffect, add3_eq_ofNat]; rfl

/-- Settles O25: the function of each command, by name. -/
theorem aluDependsOnOperandsOnly : Obligations.AluDependsOnOperandsOnly := by
  unfold Obligations.AluDependsOnOperandsOnly
  intro n
  simp only [List.forall_mem_cons, List.not_mem_nil, false_implies, implies_true, and_true]
  exact ⟨⟨fun x _ _ => rotr x n, fun s hb => exec_of_idle _ hb⟩,
    ⟨fun x _ _ => shr x n, fun s hb => exec_of_idle _ hb⟩,
    ⟨ch, fun s hb => exec_of_idle _ hb⟩, ⟨maj, fun s hb => exec_of_idle _ hb⟩,
    ⟨fun x _ _ => bigSigma0 x, fun s hb => exec_of_idle _ hb⟩,
    ⟨fun x _ _ => bigSigma1 x, fun s hb => exec_of_idle _ hb⟩,
    ⟨fun x _ _ => smallSigma0 x, fun s hb => exec_of_idle _ hb⟩,
    ⟨fun x _ _ => smallSigma1 x, fun s hb => exec_of_idle _ hb⟩,
    ⟨fun x y _ => add2 x y, fun s hb => exec_of_idle _ hb⟩,
    ⟨add3, fun s hb => exec_of_idle _ hb⟩⟩

/-- R10: a word is its four bytes. -/
theorem concatBytes_extractLsb' (v : Word) :
    concatBytes (v.extractLsb' 24 8) (v.extractLsb' 16 8) (v.extractLsb' 8 8)
      (v.extractLsb' 0 8) = v := by
  refine BitVec.eq_of_getLsbD_eq fun i hi => ?_
  rw [concatBytes_getLsbD]
  simp only [BitVec.getLsbD_extractLsb']
  split_ifs with h8 h16 h24
  · simp [h8]
  · simp [show i - 8 < 8 by omega, show 8 + (i - 8) = i by omega]
  · simp [show i - 16 < 8 by omega, show 16 + (i - 16) = i by omega]
  · simp [show i - 24 < 8 by omega, show 24 + (i - 24) = i by omega]

theorem toLanes_getElem (v : Word) (k : Fin 4) :
    (toLanes v)[(Config.BUS_LANES k).val] = v.extractLsb' (8 * k.val) 8 := by
  simp [toLanes]

/-- Settles O17: the lane that carries byte `k` on the way in is read as byte `k` on the way out. -/
theorem busLanesCarryTheValue : Obligations.BusLanesCarryTheValue := by
  unfold Obligations.BusLanesCarryTheValue
  intro v
  rw [fromLanes, toLanes_getElem, toLanes_getElem, toLanes_getElem, toLanes_getElem]
  exact concatBytes_extractLsb' v

end Sys2Proof.Machine
end

section
/-! The ROM (R130 to R133). -/

namespace Sys2Proof.Machine

/-- The primes below 18, that is all whose square is at most 311. -/
def sievePrimes : List Nat := [2, 3, 5, 7, 11, 13, 17]

/-- The primes to 311: no prime below 18 divides another of them. -/
def romPrimes : List Nat :=
  (List.range 312).filter fun p =>
    decide (2 ≤ p) && sievePrimes.all fun m => decide (m ∣ p → m = p)

theorem romPrimes_length : romPrimes.length = 64 := by decide +kernel

/-- A number below `18 ^ 2` that is no prime has a prime factor below 18. -/
theorem prime_iff_of_lt {p : Nat} (hp : p < 18 ^ 2) :
    p.Prime ↔ 2 ≤ p ∧ ∀ m ∈ sievePrimes, m ∣ p → m = p := by
  constructor
  · intro hprime
    refine ⟨hprime.two_le, fun m hm hdvd => (hprime.eq_one_or_self_of_dvd m hdvd).resolve_left ?_⟩
    rintro rfl
    simp [sievePrimes] at hm
  · rintro ⟨h2, hsmall⟩
    by_contra hnot
    have hfactor := Nat.minFac_prime (n := p) (by omega)
    have hsq : p.minFac ^ 2 ≤ p := Nat.minFac_sq_le_self (by omega) hnot
    have hlt : p.minFac < 18 := lt_of_pow_lt_pow_left₀ 2 (by decide) (hsq.trans_lt hp)
    have hmem : p.minFac ∈ sievePrimes := by
      unfold sievePrimes
      generalize p.minFac = m at hfactor hlt
      interval_cases m <;> revert hfactor <;> norm_num
    rw [hsmall _ hmem (Nat.minFac_dvd p)] at hfactor
    exact hnot hfactor

theorem mem_romPrimes (p : Nat) : p ∈ romPrimes ↔ p.Prime ∧ p ≤ 311 := by
  simp only [romPrimes, List.mem_filter, List.mem_range, Bool.and_eq_true, List.all_eq_true,
    decide_eq_true_eq, and_comm (b := p ≤ 311), Nat.lt_succ_iff]
  exact and_congr_right fun hp => (prime_iff_of_lt (by omega)).symm

/-- The floor of the `k`-th root of `p`, for `p < 18 ^ 2` and `k ≥ 2`. -/
def floorRoot (k p : Nat) : Nat := Nat.findGreatest (fun c => c ^ k ≤ p) 17

/-- R133: the `k`-th root of `p` times 2^32, as the ROM word `w` of its fraction has it. -/
def scaledRoot (k p : Nat) (w : Word) : Nat := floorRoot k p * 2 ^ 32 + w.toNat

theorem scaledRoot_mod (k p : Nat) (w : Word) : w.toNat = scaledRoot k p w % 2 ^ 32 := by
  have hw := w.isLt
  rw [scaledRoot]
  omega

theorem K_cubeRoots : ∀ i : Fin 64,
    scaledRoot 3 (romPrimes.getD i.val 0) Config.K[i.val] ^ 3 ≤
        romPrimes.getD i.val 0 * 2 ^ 96 ∧
      romPrimes.getD i.val 0 * 2 ^ 96 <
        (scaledRoot 3 (romPrimes.getD i.val 0) Config.K[i.val] + 1) ^ 3 := by
  decide +kernel

theorem IV_squareRoots : ∀ i : Fin 8,
    scaledRoot 2 (romPrimes.getD i.val 0) Config.IV[i.val] ^ 2 ≤
        romPrimes.getD i.val 0 * 2 ^ 64 ∧
      romPrimes.getD i.val 0 * 2 ^ 64 <
        (scaledRoot 2 (romPrimes.getD i.val 0) Config.IV[i.val] + 1) ^ 2 := by
  decide +kernel

theorem romPrimes_getElem? {i : Nat} (hi : i < 64) :
    romPrimes[i]? = some (romPrimes.getD i 0) := by
  have hlt : i < romPrimes.length := romPrimes_length ▸ hi
  simp [hlt]

/-- Settles O28: with the primes to 311, each ROM word completes the root's integer part to the root
times 2^32 rounded down. -/
theorem romHoldsPrimeRoots : Obligations.RomHoldsPrimeRoots := by
  unfold Obligations.RomHoldsPrimeRoots
  refine ⟨romPrimes, romPrimes_length, List.pairwise_lt_range.filter _, mem_romPrimes,
    fun i => ?cube, fun i => ?square⟩
  case cube =>
    obtain ⟨hle, hlt⟩ := K_cubeRoots i
    exact ⟨_, _, romPrimes_getElem? i.isLt, hle, hlt, scaledRoot_mod _ _ _⟩
  case square =>
    obtain ⟨hle, hlt⟩ := IV_squareRoots i
    exact ⟨_, _, romPrimes_getElem? (by omega), hle, hlt, scaledRoot_mod _ _ _⟩

/-- Settles O27: `exec` of the two commands on an idle engine. -/
theorem romReads : Obligations.RomReads := by
  unfold Obligations.RomReads
  exact fun s hb => ⟨fun i => exec_of_idle (.rdk i) hb, fun i => exec_of_idle (.rdiv i) hb⟩

end Sys2Proof.Machine
end

section
/-! The settled statements about single accesses: the window, `STATUS`, repeated reads and writes,
refusals while busy, the stop outside the window, and reset. -/

namespace Sys2Proof.Machine

/-- R24, R27: the field of `STATUS` that shows the round counter. -/
theorem statusWord_round (s : State) :
    ((statusWord s).extractLsb' 8 7).toNat = s.t.val := by
  have hfield : (statusWord s).extractLsb' 8 7 = BitVec.ofNat 7 s.t.val := by
    refine BitVec.eq_of_getLsbD_eq fun i hi => ?_
    rw [BitVec.getLsbD_extractLsb', statusWord_getLsbD, if_neg (by omega), if_neg (by omega),
      if_neg (by omega), if_neg (by omega), if_neg (by omega), if_pos (by omega),
      Nat.add_sub_cancel_left, BitVec.getLsbD_ofNat]
  have hlt := s.t.isLt
  rw [hfield, BitVec.toNat_ofNat, Nat.mod_eq_of_lt (by omega)]

/-- R24: the reserved fields of `STATUS` read 0. -/
theorem statusWord_reserved (s : State) {start len : Nat}
    (h : ∀ i < len, 5 ≤ start + i ∧ (start + i < 8 ∨ 15 ≤ start + i)) :
    (statusWord s).extractLsb' start len = 0 := by
  refine BitVec.eq_of_getLsbD_eq fun i hi => ?_
  have hi' := h i hi
  rw [BitVec.getLsbD_extractLsb', statusWord_getLsbD, if_neg (by omega), if_neg (by omega),
    if_neg (by omega), if_neg (by omega), if_neg (by omega), if_neg (by omega)]
  simp

/-- Settles O9: the bits of `STATUS` one by one, and its three fields. -/
theorem statusFields : Obligations.StatusFields := by
  unfold Obligations.StatusFields
  intro s
  refine ⟨?_, ?_, ?_, ?_, ?_, statusWord_reserved s (by omega), statusWord_round s,
    statusWord_reserved s (by omega)⟩ <;> rw [statusWord_getLsbD] <;> rfl

/-- Settles O16: where an address falls, inside and outside. -/
theorem windowAddresses : Obligations.WindowAddresses := by
  unfold Obligations.WindowAddresses
  refine ⟨Nat.mul_mod_right 16 _, Nat.le_add_left 1 _, fun off n v => ?inside,
    fun addr n v hout => ?outside⟩
  case inside =>
    have hplace : placeOf (Config.BASE + off.val) = .window off := by simp [placeOf]
    exact ⟨by rw [memWrite, hplace], by rw [memRead, hplace]⟩
  case outside =>
    have hplace : placeOf addr = .elsewhere addr := dif_neg (by omega)
    exact ⟨by rw [memWrite, hplace], by rw [memRead, hplace]⟩

theorem performEvent_admitted_read {off : Fin 16} (h : off.val % 4 = 0) (s : State) :
    performEvent (.read (.window off) 4) s = .next (s.pushReply ⟨4, readReg s (regAt off)⟩) := by
  simp [performEvent, readWindow, (admitted_iff off 4).2 ⟨rfl, h⟩]

/-- No register the host reads holds what it has read before, so a read repeats. -/
theorem readReg_pushReply (s : State) (r : BusReply) (reg : Reg) :
    readReg (s.pushReply r) reg = readReg s reg := by
  cases reg <;> rfl

/-- Settles O18: a read leaves every register, so the second returns what the first did. -/
theorem readsAreIdempotent : Obligations.ReadsAreIdempotent := by
  unfold Obligations.ReadsAreIdempotent
  intro s off ha
  have hagain := performEvent_admitted_read ha (s.pushReply ⟨4, readReg s (regAt off)⟩)
  rw [readReg_pushReply] at hagain
  exact ⟨_, Runs.cons (performEvent_admitted_read ha s) (Runs.cons hagain (Runs.nil _))⟩

theorem clearErr_clearErr (s : State) (x : Word) :
    (s.clearErr x).clearErr x = s.clearErr x := by
  simp [State.clearErr]

/-- Settles O19: the second write finds the register, or the cleared flags, as it leaves them. -/
theorem dataAndStatusWritesAreIdempotent : Obligations.DataAndStatusWritesAreIdempotent := by
  unfold Obligations.DataAndStatusWritesAreIdempotent
  intro s t x e he hruns
  obtain ⟨u, hu, hend⟩ := hruns.cons_inv
  have hagain : performEvent e u = .next u := by
    rcases he with rfl | rfl
    · obtain rfl : s.setDATA x = u := Host.Outcome.next.inj hu
      rfl
    · obtain rfl : s.clearErr x = u := Host.Outcome.next.inj hu
      exact congrArg Host.Outcome.next (clearErr_clearErr s x)
  exact Runs.cons hu (Runs.cons hagain hend)

/-- Settles O12: a command is refused by `exec` and by the `CMD` write alike; the other accesses
named raise no flag. -/
theorem busyRefusesEveryCommand : Obligations.BusyRefusesEveryCommand := by
  unfold Obligations.BusyRefusesEveryCommand
  refine ⟨fun s => ?bit, fun s hb => ⟨fun i => exec_of_busy i hb, fun w rest hp => ?command,
    fun x rest off hp => ?others⟩⟩
  case bit => rw [statusWord_getLsbD]; rfl
  case command =>
    rw [step_of_write_CMD hp]
    exact writeCMD_of_busy (s := s.setPending rest) w hb
  case others =>
    rcases hp with hp | hp | ⟨hp, ha⟩
    · exact ⟨_, step_of_admitted_write hp rfl, fun F => by simp⟩
    · exact ⟨_, step_of_admitted_write hp rfl, fun F => by simp_all⟩
    · exact ⟨_, step_of_admitted_read hp ha, fun F => by simp⟩

/-- R50: an input outside the window, where the model stops (log entry 6). -/
theorem performEvent_of_not_isOrdinary {e : Event} (ho : isOrdinary e = false)
    (hreset : e ≠ .reset) (s : State) :
    ∃ a, performEvent e s = .fault (.outsideWindow a) ∧
      ((∃ size, e = .read (.elsewhere a) size) ∨ ∃ size x, e = .write (.elsewhere a) size x) := by
  cases e with
  | turn => cases ho
  | reset => exact absurd rfl hreset
  | read p size =>
    cases p with
    | window off => cases ho
    | elsewhere a => exact ⟨a, rfl, .inl ⟨size, rfl⟩⟩
  | write p size x =>
    cases p with
    | window off => cases ho
    | elsewhere a => exact ⟨a, rfl, .inr ⟨size, x, rfl⟩⟩

/-- Settles O15: the next input is an ordinary one, a reset, or an access outside the window. -/
theorem stepStopsOnlyOutsideWindow : Obligations.StepStopsOnlyOutsideWindow := by
  unfold Obligations.StepStopsOnlyOutsideWindow
  intro s
  cases hp : s.pending with
  | nil => simp [step_of_nil hp]
  | cons e rest =>
    rw [step_of_cons hp]
    cases ho : isOrdinary e with
    | true =>
      obtain ⟨t, ht⟩ := performEvent_of_isOrdinary ho (s.setPending rest)
      rw [ht]
      refine ⟨fun r => nofun, fun f => ⟨nofun, ?_⟩⟩
      rintro ⟨a, rest', -, ⟨size, h⟩ | ⟨size, x, h⟩⟩ <;> cases h <;> cases ho
    | false =>
      by_cases hreset : e = .reset
      · subst hreset
        simp [performEvent]
      · obtain ⟨a, hfault, he⟩ := performEvent_of_not_isOrdinary ho hreset (s.setPending rest)
        rw [hfault]
        rcases he with ⟨size, rfl⟩ | ⟨size, x, rfl⟩ <;> simp [eq_comm]

/-- Settles O54: the reset engine is idle, so a later turn does nothing. -/
theorem resetAbandonsEverything : Obligations.ResetAbandonsEverything := by
  unfold Obligations.ResetAbandonsEverything
  refine fun s rest hp =>
    ⟨step_of_cons hp, rfl, rfl, rfl, ⟨rfl, rfl, rfl⟩, fun rest' hrest => ?turn⟩
  case turn =>
    rw [step_of_turn hrest]
    exact congrArg _ (sequencerStep_of_idle rfl)

end Sys2Proof.Machine
end

section
/-! Control does not depend on data (R240): what an input does to the control bits and to the number
and sizes of the replies is a function of these alone. -/

namespace Sys2Proof.Machine

variable {s₁ s₂ : State}

/-- What R240 lets the bus see of a state: the `STATUS` bits, and the sizes of the replies. -/
structure Control where
  BUSY : Bool
  DONE : Bool
  t : Fin 65
  CMDERR : Bool
  BUSYERR : Bool
  ACCERR : Bool
  sizes : List Nat

def State.control (s : State) : Control :=
  ⟨s.BUSY, s.DONE, s.t, s.CMDERR, s.BUSYERR, s.ACCERR, s.replies.map BusReply.size⟩

theorem control_eq_iff (s₁ s₂ : State) :
    s₁.control = s₂.control ↔
      s₁.BUSY = s₂.BUSY ∧ s₁.DONE = s₂.DONE ∧ s₁.t = s₂.t ∧ s₁.CMDERR = s₂.CMDERR ∧
        s₁.BUSYERR = s₂.BUSYERR ∧ s₁.ACCERR = s₂.ACCERR ∧
        s₁.replies.map BusReply.size = s₂.replies.map BusReply.size := by
  simp [State.control]

theorem controlAlike_iff (s₁ s₂ : State) :
    ControlAlike s₁ s₂ ↔
      s₁.control = s₂.control ∧ List.Forall₂ EventsAlike s₁.pending s₂.pending := by
  simp [ControlAlike, control_eq_iff, and_assoc]

theorem BUSY_eq_of_control_eq (h : s₁.control = s₂.control) : s₁.BUSY = s₂.BUSY :=
  congrArg Control.BUSY h

theorem t_eq_of_control_eq (h : s₁.control = s₂.control) : s₁.t = s₂.t :=
  congrArg Control.t h

/-! Each operation takes states of one control to states of one control. -/

theorem control_raiseErr (F : ErrFlag) (h : s₁.control = s₂.control) :
    (s₁.raiseErr F).control = (s₂.raiseErr F).control := by
  simp_all [control_eq_iff]

theorem control_clearErr (x : Word) (h : s₁.control = s₂.control) :
    (s₁.clearErr x).control = (s₂.clearErr x).control := by
  simp_all [control_eq_iff]

theorem control_resetEngine (h : s₁.control = s₂.control) :
    s₁.resetEngine.control = s₂.resetEngine.control := by
  simp_all [control_eq_iff]

theorem control_pushReply (size : Nat) (x₁ x₂ : Word) (h : s₁.control = s₂.control) :
    (s₁.pushReply ⟨size, x₁⟩).control = (s₂.pushReply ⟨size, x₂⟩).control := by
  simp_all [control_eq_iff]

theorem control_roundStep (r : Fin 64) (h : s₁.control = s₂.control) :
    (s₁.roundStep r).control = (s₂.roundStep r).control := by
  simp_all [control_eq_iff]

theorem control_updateStep (h : s₁.control = s₂.control) :
    s₁.updateStep.control = s₂.updateStep.control := by
  simp_all [control_eq_iff]

theorem control_acceptComp (h : s₁.control = s₂.control) :
    s₁.acceptComp.control = s₂.acceptComp.control := by
  simp_all [control_eq_iff]

theorem control_setDONE (b : Bool) (h : s₁.control = s₂.control) :
    (s₁.setDONE b).control = (s₂.setDONE b).control := by
  simp_all [control_eq_iff]

theorem control_sequencerStep (h : s₁.control = s₂.control) :
    s₁.sequencerStep.control = s₂.sequencerStep.control := by
  have hb := BUSY_eq_of_control_eq h
  have ht := t_eq_of_control_eq h
  rcases sequencerStep_cases s₁ with ⟨hb₁, hs⟩ | ⟨hb₁, ht₁, hs⟩ | ⟨hb₁, ht₁, hs⟩ <;> rw [hs]
  · rw [sequencerStep_of_idle (hb ▸ hb₁)]
    exact h
  · rw [sequencerStep_of_round (hb ▸ hb₁) (ht ▸ ht₁)]
    simp only [← ht]
    exact control_roundStep _ h
  · rw [sequencerStep_of_update (hb ▸ hb₁) (ht ▸ ht₁)]
    exact control_updateStep h

theorem control_readWindow (off : Fin 16) (size : Nat) (h : s₁.control = s₂.control) :
    (readWindow off size s₁).control = (readWindow off size s₂).control := by
  unfold readWindow
  split
  · exact control_pushReply size _ _ h
  · exact control_pushReply size _ _ (control_raiseErr _ h)

/-- The index or shift operand of a command reaches no control bit. -/
theorem control_commandEffect_shapeOf (i : Instr) (s : State) :
    (commandEffect (shapeOf i) s).control = (commandEffect i s).control := by
  cases i <;> rfl

theorem control_commandEffect (i : Instr) (h : s₁.control = s₂.control) :
    (commandEffect i s₁).control = (commandEffect i s₂).control := by
  cases i with
  | comp => exact control_acceptComp h
  | init => exact control_setDONE (s₁ := s₁.setH _) (s₂ := s₂.setH _) false h
  | wrh k => exact control_setDONE (s₁ := s₁.setH _) (s₂ := s₂.setH _) false h
  | _ => exact h

theorem control_commandEffect_of_shape {i₁ i₂ : Instr} (hshape : shapeOf i₁ = shapeOf i₂)
    (h : s₁.control = s₂.control) :
    (commandEffect i₁ s₁).control = (commandEffect i₂ s₂).control := by
  rw [← control_commandEffect_shapeOf i₁, ← control_commandEffect_shapeOf i₂, hshape]
  exact control_commandEffect _ h

/-- Both outcomes are next states of one control, or one fault. -/
def OutcomesAlike (o₁ o₂ : Host.Outcome State Fault Refusal) : Prop :=
  (∃ t₁ t₂, o₁ = .next t₁ ∧ o₂ = .next t₂ ∧ t₁.control = t₂.control) ∨
    ∃ f, o₁ = .fault f ∧ o₂ = .fault f

theorem outcomesAlike_next {t₁ t₂ : State} (h : t₁.control = t₂.control) :
    OutcomesAlike (.next t₁) (.next t₂) := .inl ⟨t₁, t₂, rfl, rfl, h⟩

theorem outcomesAlike_writeCMD (w : Word) (h : s₁.control = s₂.control) :
    OutcomesAlike (writeCMD w s₁) (writeCMD w s₂) := by
  have hb := BUSY_eq_of_control_eq h
  rcases writeCMD_cases w s₁ with ⟨hb₁, hw⟩ | ⟨hb₁, hd, hw⟩ | ⟨hb₁, i, hd, hw⟩ <;> rw [hw]
  · rw [writeCMD_of_busy w (hb ▸ hb₁)]
    exact outcomesAlike_next (control_raiseErr _ h)
  · rw [writeCMD_of_illegal (hb ▸ hb₁) hd]
    exact outcomesAlike_next (control_raiseErr _ h)
  · rw [writeCMD_of_legal (hb ▸ hb₁) hd, exec_of_idle i (hb ▸ hb₁)]
    exact outcomesAlike_next (control_commandEffect i h)

theorem outcomesAlike_issue {i₁ i₂ : Instr} (hshape : shapeOf i₁ = shapeOf i₂)
    (h : s₁.control = s₂.control) :
    OutcomesAlike (performEvent (issue i₁) s₁) (performEvent (issue i₂) s₂) := by
  have hb := BUSY_eq_of_control_eq h
  cases hb₁ : s₁.BUSY with
  | true =>
    rw [performEvent_issue_of_busy i₁ hb₁, performEvent_issue_of_busy i₂ (hb ▸ hb₁)]
    exact outcomesAlike_next (control_raiseErr _ h)
  | false =>
    rw [performEvent_issue_of_idle i₁ hb₁, performEvent_issue_of_idle i₂ (hb ▸ hb₁)]
    exact outcomesAlike_next (control_commandEffect_of_shape hshape h)

theorem outcomesAlike_writeWindow (off : Fin 16) (size : Nat) (x : Word)
    (h : s₁.control = s₂.control) :
    OutcomesAlike (writeWindow off size x s₁) (writeWindow off size x s₂) := by
  unfold writeWindow
  split
  · cases regAt off with
    | CMD => exact outcomesAlike_writeCMD x h
    | DATA => exact outcomesAlike_next h
    | RESULT => exact outcomesAlike_next h
    | STATUS => exact outcomesAlike_next (control_clearErr x h)
  · exact outcomesAlike_next (control_raiseErr _ h)

/-- One input performed on two states of one control. -/
theorem outcomesAlike_performEvent (e : Event) (h : s₁.control = s₂.control) :
    OutcomesAlike (performEvent e s₁) (performEvent e s₂) := by
  cases e with
  | turn => exact outcomesAlike_next (control_sequencerStep h)
  | reset => exact outcomesAlike_next (control_resetEngine h)
  | read p size =>
    cases p with
    | window off => exact outcomesAlike_next (control_readWindow off size h)
    | elsewhere a => exact .inr ⟨_, rfl, rfl⟩
  | write p size x =>
    cases p with
    | window off => exact outcomesAlike_writeWindow off size x h
    | elsewhere a => exact .inr ⟨_, rfl, rfl⟩

theorem outcomesAlike_of_eventsAlike {e₁ e₂ : Event} (he : EventsAlike e₁ e₂)
    (h : s₁.control = s₂.control) :
    OutcomesAlike (performEvent e₁ s₁) (performEvent e₂ s₂) := by
  rcases he with rfl | ⟨x₁, x₂, rfl, rfl⟩ | ⟨i₁, i₂, hshape, rfl, rfl⟩
  · exact outcomesAlike_performEvent e₁ h
  · exact outcomesAlike_next h
  · exact outcomesAlike_issue hshape h

/-- One step of two states that look alike on the bus: alike again, or one fault. -/
theorem step_controlAlike (h : ControlAlike s₁ s₂) :
    (∃ t₁ t₂, step s₁ = .next t₁ ∧ step s₂ = .next t₂ ∧ ControlAlike t₁ t₂) ∨
      ∃ f, step s₁ = .fault f ∧ step s₂ = .fault f := by
  obtain ⟨hcontrol, hpending⟩ := (controlAlike_iff s₁ s₂).1 h
  cases hp₁ : s₁.pending with
  | nil =>
    have hp₂ : s₂.pending = [] := List.forall₂_nil_left_iff.1 (hp₁ ▸ hpending)
    refine .inl ⟨_, _, step_of_nil hp₁, step_of_nil hp₂, (controlAlike_iff _ _).2 ?_⟩
    rw [sequencerStep_pending, sequencerStep_pending]
    exact ⟨control_sequencerStep hcontrol, hpending⟩
  | cons e₁ rest₁ =>
    rw [hp₁] at hpending
    obtain ⟨e₂, rest₂, he, hrest, hp₂⟩ := List.forall₂_cons_left_iff.1 hpending
    have hcontrol' : (s₁.setPending rest₁).control = (s₂.setPending rest₂).control := hcontrol
    rw [step_of_cons hp₁, step_of_cons hp₂]
    rcases outcomesAlike_of_eventsAlike he hcontrol' with ⟨t₁, t₂, h₁, h₂, ht⟩ | hfault
    · refine .inl ⟨t₁, t₂, h₁, h₂, (controlAlike_iff t₁ t₂).2 ⟨ht, ?_⟩⟩
      rw [performEvent_pending h₁, performEvent_pending h₂]
      exact hrest
    · exact .inr hfault

/-- Settles O52: from one step of two states of one control. -/
theorem controlIndependentOfData : Obligations.ControlIndependentOfData := by
  unfold Obligations.ControlIndependentOfData
  intro s₁ s₂ h
  rcases step_controlAlike h with ⟨u₁, u₂, h₁, h₂, hu⟩ | ⟨f, h₁, h₂⟩
  · refine ⟨fun t₁ ht => ⟨u₂, h₂, ?_⟩, fun f hf => (nomatch h₁.symm.trans hf)⟩
    obtain rfl : u₁ = t₁ := Host.Outcome.next.inj (h₁.symm.trans ht)
    exact hu
  · exact ⟨fun t₁ ht => (nomatch h₁.symm.trans ht), fun g hg => (h₁.symm.trans hg) ▸ h₂⟩

end Sys2Proof.Machine
end
